-- ==== Sys2Proof/Word.lean ====
section
/-! DEFINITION. The machine's word types (spec/00_scope.md R5, R6, R8; spec/10_state.md): every
quantity is an unsigned bit string. -/

namespace Sys2Proof

/-- A memory byte or a general register's value (10_state.md R10, R23). -/
abbrev Byte := BitVec 8

/-- An instruction word, or a value of I, PC or a stack slot (10_state.md R13, R16, R18). -/
abbrev Word := BitVec 16

/-- A 4-bit field: a register number, a row count or a key index (00_scope.md R8, 60_exceptions.md R178). -/
abbrev Nibble := BitVec 4

/-- The 12-bit address field `nnn` (00_scope.md R8). -/
abbrev Addr12 := BitVec 12

end Sys2Proof
end

