-- ==== Sys2Proof/Config.lean ====
section
/-! DEFINITION. What this hardware fixes (the parameters of spec/00_scope.md R4), the default of the
one open parameter FONT, the moves of the environment, and the free values of the model. -/

namespace Sys2Proof

/-- MEM_SIZE: bytes of memory (00_scope.md R4). -/
abbrev Config.memSize : Nat := 4096

/-- PROGRAM_BASE: load address and entry point of LOAD (00_scope.md R4, 70_reset_and_hazards.md R193). -/
abbrev Config.programBase : Nat := 512

/-- STACK_DEPTH: call-stack slots (00_scope.md R4). -/
abbrev Config.stackDepth : Nat := 16

/-- FONT_BYTES: 16 glyphs of 5 bytes, from address 0 (00_scope.md R4). -/
abbrev Config.fontBytes : Nat := 80

/-- GLYPH_BYTES: bytes of one glyph (00_scope.md R4). -/
abbrev Config.glyphBytes : Nat := 5

/-- The default glyphs of the digits 0 to 7 (70_reset_and_hazards.md R192). PRESUMED, log 1. -/
def Config.glyphsLow : List Byte :=
  [0xF0, 0x90, 0x90, 0x90, 0xF0,  0x20, 0x60, 0x20, 0x20, 0x70,
   0xF0, 0x10, 0xF0, 0x80, 0xF0,  0xF0, 0x10, 0xF0, 0x10, 0xF0,
   0x90, 0x90, 0xF0, 0x10, 0x10,  0xF0, 0x80, 0xF0, 0x10, 0xF0,
   0xF0, 0x80, 0xF0, 0x90, 0xF0,  0xF0, 0x10, 0x20, 0x40, 0x40]

/-- The default glyphs of the digits 8 to F (70_reset_and_hazards.md R192). PRESUMED, log 1. -/
def Config.glyphsHigh : List Byte :=
  [0xF0, 0x90, 0xF0, 0x90, 0xF0,  0xF0, 0x90, 0xF0, 0x10, 0xF0,
   0xF0, 0x90, 0xF0, 0x90, 0x90,  0xE0, 0x90, 0xE0, 0x90, 0xE0,
   0xF0, 0x80, 0x80, 0x80, 0xF0,  0xE0, 0x90, 0x90, 0x90, 0xE0,
   0xF0, 0x80, 0xF0, 0x80, 0xF0,  0xF0, 0x80, 0xF0, 0x80, 0x80]

/-- The default value of the open parameter FONT (70_reset_and_hazards.md R192, D17). PRESUMED,
unsafe where a claim reads it from the reset state, log 1: the machine's FONT is `State.font`. -/
def Config.defaultFont : Vector Byte 80 :=
  ⟨(Config.glyphsLow ++ Config.glyphsHigh).toArray, by decide⟩

/-- The FREE VALUE of Cxkk: the byte of the `n`-th draw for which the environment has supplied none
(43_load_alu.md R133, U4). It has no body: nothing can be proved of its value. Safe, log 5. -/
opaque Config.freeDraw : Nat → Byte

end Sys2Proof

/-! ### The moves of the environment -/

namespace Sys2Proof.Machine

/-- The host's events (40_step_cycle.md R80); a key index has 4 bits (60_exceptions.md R178). -/
inductive HostEvent where
  /-- RESET (70_reset_and_hazards.md R190). -/
  | reset
  /-- LOAD of a program image (70_reset_and_hazards.md R193). -/
  | load (rom : List Byte)
  /-- TICK (60_exceptions.md R173). -/
  | tick
  /-- KEY_DOWN (60_exceptions.md R176). -/
  | keyDown (k : Nibble)
  /-- KEY_UP (60_exceptions.md R177). -/
  | keyUp (k : Nibble)
  /-- SNAPSHOT (60_exceptions.md R180). -/
  | snapshot
  deriving DecidableEq, Repr

/-- Whose move is next in the interleaving that R80 leaves free. -/
inductive Turn where
  /-- The core may step. -/
  | core
  /-- The host makes a move. -/
  | host (e : HostEvent)
  deriving DecidableEq, Repr, Inhabited

end Sys2Proof.Machine

namespace Sys2Proof

/-- The FREE VALUE of the interleaving: the `n`-th turn past the planned ones, in an environment that
goes on without a plan (40_step_cycle.md R80, U8, U9). It has no body: nothing can be proved of whose
move it is, so what holds of every such run holds of every infinite interleaving. Safe, log 3. -/
opaque Config.freeTurn : Nat → Machine.Turn

end Sys2Proof
end

