-- ==== Sys2Proof/Syntax.lean ====
section
/-! DEFINITION. The instructions: one constructor for each of the 34 rows of spec/opcode_table.json
(spec/30_encoding.md R64), in the table's order, with the fields its format names (R61, R63). -/

namespace Sys2Proof

/-- One instruction. The field names are those of 00_scope.md R8; each docstring gives the pattern. -/
inductive Instr where
  /-- 00E0, `CLS` (R91). -/
  | cls
  /-- 00EE, `RET` (R101). -/
  | ret
  /-- 1nnn, `JP nnn` (R102). -/
  | jp (nnn : Addr12)
  /-- 2nnn, `CALL nnn` (R103). -/
  | call (nnn : Addr12)
  /-- 3xkk, `SE Vx, kk` (R104). -/
  | seImm (x : Nibble) (kk : Byte)
  /-- 4xkk, `SNE Vx, kk` (R105). -/
  | sneImm (x : Nibble) (kk : Byte)
  /-- 5xy0, `SE Vx, Vy` (R106). -/
  | seReg (x y : Nibble)
  /-- 6xkk, `LD Vx, kk` (R121). -/
  | ldImm (x : Nibble) (kk : Byte)
  /-- 7xkk, `ADD Vx, kk` (R122). -/
  | addImm (x : Nibble) (kk : Byte)
  /-- 8xy0, `LD Vx, Vy` (R123). -/
  | ldReg (x y : Nibble)
  /-- 8xy1, `OR Vx, Vy` (R124). -/
  | orReg (x y : Nibble)
  /-- 8xy2, `AND Vx, Vy` (R125). -/
  | andReg (x y : Nibble)
  /-- 8xy3, `XOR Vx, Vy` (R126). -/
  | xorReg (x y : Nibble)
  /-- 8xy4, `ADD Vx, Vy` (R127). -/
  | addReg (x y : Nibble)
  /-- 8xy5, `SUB Vx, Vy` (R128). -/
  | subReg (x y : Nibble)
  /-- 8xy6, `SHR Vx` (R129); y is decoded and ignored. -/
  | shr (x y : Nibble)
  /-- 8xy7, `SUBN Vx, Vy` (R130). -/
  | subnReg (x y : Nibble)
  /-- 8xyE, `SHL Vx` (R131); y is decoded and ignored. -/
  | shl (x y : Nibble)
  /-- 9xy0, `SNE Vx, Vy` (R107). -/
  | sneReg (x y : Nibble)
  /-- Annn, `LD I, nnn` (R141). -/
  | ldI (nnn : Addr12)
  /-- Bnnn, `JP V0, nnn` (R108). -/
  | jpV0 (nnn : Addr12)
  /-- Cxkk, `RND Vx, kk` (R132). -/
  | rnd (x : Nibble) (kk : Byte)
  /-- Dxyn, `DRW Vx, Vy, n` (R93). -/
  | drw (x y n : Nibble)
  /-- Ex9E, `SKP Vx` (R151). -/
  | skp (x : Nibble)
  /-- ExA1, `SKNP Vx` (R152). -/
  | sknp (x : Nibble)
  /-- Fx07, `LD Vx, DT` (R154). -/
  | ldVxDt (x : Nibble)
  /-- Fx0A, `LD Vx, K` (R153). -/
  | ldVxKey (x : Nibble)
  /-- Fx15, `LD DT, Vx` (R155). -/
  | ldDtVx (x : Nibble)
  /-- Fx18, `LD ST, Vx` (R156). -/
  | ldStVx (x : Nibble)
  /-- Fx1E, `ADD I, Vx` (R142). -/
  | addI (x : Nibble)
  /-- Fx29, `LD F, Vx` (R143). -/
  | ldGlyph (x : Nibble)
  /-- Fx33, `LD B, Vx` (R144). -/
  | ldBcd (x : Nibble)
  /-- Fx55, `LD [I], Vx` (R145). -/
  | storeRegs (x : Nibble)
  /-- Fx65, `LD Vx, [I]` (R146). -/
  | loadRegs (x : Nibble)
  deriving DecidableEq, Repr

end Sys2Proof
end

