-- ==== Sys2Proof/WellFormed.lean ====
section
/-! DEFINITION. Well-formedness of what enters the machine: an instruction as syntax, and the program
image that LOAD takes. -/

namespace Sys2Proof

/-- Every instruction term is well-formed: the field widths are in the types, and by
30_encoding.md R67 "no field value makes a defined instruction undefined". One arm per constructor,
so that a new instruction has to be considered. -/
def Instr.wellFormed : Instr → Bool
  | .cls => true
  | .ret => true
  | .jp _ => true
  | .call _ => true
  | .seImm _ _ => true
  | .sneImm _ _ => true
  | .seReg _ _ => true
  | .ldImm _ _ => true
  | .addImm _ _ => true
  | .ldReg _ _ => true
  | .orReg _ _ => true
  | .andReg _ _ => true
  | .xorReg _ _ => true
  | .addReg _ _ => true
  | .subReg _ _ => true
  | .shr _ _ => true
  | .subnReg _ _ => true
  | .shl _ _ => true
  | .sneReg _ _ => true
  | .ldI _ => true
  | .jpV0 _ => true
  | .rnd _ _ => true
  | .drw _ _ _ => true
  | .skp _ => true
  | .sknp _ => true
  | .ldVxDt _ => true
  | .ldVxKey _ => true
  | .ldDtVx _ => true
  | .ldStVx _ => true
  | .addI _ => true
  | .ldGlyph _ => true
  | .ldBcd _ => true
  | .storeRegs _ => true
  | .loadRegs _ => true

/-- A program image LOAD accepts: `size + 512 < 4096` (70_reset_and_hazards.md R193). -/
def romFits (rom : List Byte) : Bool :=
  decide (Config.programBase + rom.length < Config.memSize)

end Sys2Proof
end

