-- ==== Sys2Proof/Decode.lean ====
section
/-! DEFINITION. Decoding, total on every word and on every list of bytes (spec/30_encoding.md R60 to
R65, R70), and the encoder, written from the same table. -/

namespace Sys2Proof

/-! ### Fields (00_scope.md R8) -/

/-- `x = w[11:8]`. -/
def fieldX (w : Word) : Nibble := w.extractLsb' 8 4
/-- `y = w[7:4]`. -/
def fieldY (w : Word) : Nibble := w.extractLsb' 4 4
/-- `n = w[3:0]`. -/
def fieldN (w : Word) : Nibble := w.extractLsb' 0 4
/-- `kk = w[7:0]`. -/
def fieldKk (w : Word) : Byte := w.extractLsb' 0 8
/-- `nnn = w[11:0]`. -/
def fieldNnn (w : Word) : Addr12 := w.extractLsb' 0 12

/-! ### The opcode table (30_encoding.md R64) -/

/-- One row of the opcode table: the match and mask columns, and the instruction the row names. -/
structure OpRow where
  mask : Word
  pattern : Word
  build : Word → Instr

/-- The row selects the word: `(w AND mask) = match` (R62). -/
def OpRow.selects (r : OpRow) (w : Word) : Bool := (w &&& r.mask) == r.pattern

/-- Format FIXED: all sixteen bits are fixed (R61). -/
def OpRow.fixed (p : Word) (i : Instr) : OpRow := ⟨0xFFFF, p, fun _ => i⟩
/-- Format NNN (R61). -/
def OpRow.nnn (p : Word) (i : Addr12 → Instr) : OpRow := ⟨0xF000, p, fun w => i (fieldNnn w)⟩
/-- Format XKK (R61). -/
def OpRow.xkk (p : Word) (i : Nibble → Byte → Instr) : OpRow :=
  ⟨0xF000, p, fun w => i (fieldX w) (fieldKk w)⟩
/-- Format XY (R61). -/
def OpRow.xy (p : Word) (i : Nibble → Nibble → Instr) : OpRow :=
  ⟨0xF00F, p, fun w => i (fieldX w) (fieldY w)⟩
/-- Format XYN (R61). -/
def OpRow.xyn (p : Word) (i : Nibble → Nibble → Nibble → Instr) : OpRow :=
  ⟨0xF000, p, fun w => i (fieldX w) (fieldY w) (fieldN w)⟩
/-- Format X (R61). -/
def OpRow.x (p : Word) (i : Nibble → Instr) : OpRow := ⟨0xF0FF, p, fun w => i (fieldX w)⟩

/-- Rows 1 to 9 of R64. -/
def opRowsA : List OpRow :=
  [.fixed 0x00E0 .cls, .fixed 0x00EE .ret, .nnn 0x1000 .jp, .nnn 0x2000 .call,
   .xkk 0x3000 .seImm, .xkk 0x4000 .sneImm, .xy 0x5000 .seReg, .xkk 0x6000 .ldImm,
   .xkk 0x7000 .addImm]

/-- Rows 10 to 19 of R64. -/
def opRowsB : List OpRow :=
  [.xy 0x8000 .ldReg, .xy 0x8001 .orReg, .xy 0x8002 .andReg, .xy 0x8003 .xorReg,
   .xy 0x8004 .addReg, .xy 0x8005 .subReg, .xy 0x8006 .shr, .xy 0x8007 .subnReg,
   .xy 0x800E .shl, .xy 0x9000 .sneReg]

/-- Rows 20 to 34 of R64. -/
def opRowsC : List OpRow :=
  [.nnn 0xA000 .ldI, .nnn 0xB000 .jpV0, .xkk 0xC000 .rnd, .xyn 0xD000 .drw,
   .x 0xE09E .skp, .x 0xE0A1 .sknp, .x 0xF007 .ldVxDt, .x 0xF00A .ldVxKey,
   .x 0xF015 .ldDtVx, .x 0xF018 .ldStVx, .x 0xF01E .addI, .x 0xF029 .ldGlyph,
   .x 0xF033 .ldBcd, .x 0xF055 .storeRegs, .x 0xF065 .loadRegs]

/-- The 34 rows of R64, in the table's order. -/
def opTable : List OpRow := opRowsA ++ opRowsB ++ opRowsC

/-! ### The decoder (R70) -/

/-- What a word decodes to: an instruction, or rejected by name as an undefined word (R65), which the
step executes as a no-operation (40_step_cycle.md R83). -/
inductive Decoded where
  /-- The word matches a row of R64. -/
  | instr (i : Instr)
  /-- The word matches no row: `UNDEFINED(w)` of R70. -/
  | undefined (w : Word)
  deriving DecidableEq, Repr

/-- Why a list of bytes holds no instruction word: fewer than two bytes (R60). -/
inductive Truncated where
  /-- `n` bytes were given, 0 or 1. -/
  | tooFewBytes (n : Nat)
  deriving DecidableEq, Repr

/-- `Decode(w)` of R70: the first row that selects the word, else `UNDEFINED(w)`. -/
def decode (w : Word) : Decoded :=
  match opTable.find? (fun r => r.selects w) with
  | some r => .instr (r.build w)
  | none => .undefined w

/-- The word stored as two bytes, high byte first (20_memory.md R43). -/
def wordOfBytes (hi lo : Byte) : Word := hi ++ lo

/-- Decoding of bytes in memory order: one word is two bytes (R60); the rest is handed back. -/
def decodeBytes : List Byte → Except Truncated (Decoded × List Byte)
  | hi :: lo :: rest => .ok (decode (wordOfBytes hi lo), rest)
  | [b] => .error (.tooFewBytes [b].length)
  | [] => .error (.tooFewBytes 0)

/-! ### The encoder, from the formats of R61 and the match column of R64 -/

/-- Format NNN: op, nnn. -/
def encNnn (op : Nibble) (nnn : Addr12) : Word := op ++ nnn
/-- Format XKK: op, x, kk. -/
def encXkk (op x : Nibble) (kk : Byte) : Word := (op ++ (x ++ kk : BitVec 12) : BitVec 16)
/-- Format XY and XYN: four hexadecimal digits. -/
def encXyn (op x y n : Nibble) : Word := (op ++ (x ++ (y ++ n : BitVec 8) : BitVec 12) : BitVec 16)
/-- Format X: op, x, function code. -/
def encX (op x : Nibble) (fn : Byte) : Word := (op ++ (x ++ fn : BitVec 12) : BitVec 16)

/-- The word of an instruction (R61, R64). -/
def encode : Instr → Word
  | .cls => 0x00E0
  | .ret => 0x00EE
  | .jp nnn => encNnn 0x1 nnn
  | .call nnn => encNnn 0x2 nnn
  | .seImm x kk => encXkk 0x3 x kk
  | .sneImm x kk => encXkk 0x4 x kk
  | .seReg x y => encXyn 0x5 x y 0x0
  | .ldImm x kk => encXkk 0x6 x kk
  | .addImm x kk => encXkk 0x7 x kk
  | .ldReg x y => encXyn 0x8 x y 0x0
  | .orReg x y => encXyn 0x8 x y 0x1
  | .andReg x y => encXyn 0x8 x y 0x2
  | .xorReg x y => encXyn 0x8 x y 0x3
  | .addReg x y => encXyn 0x8 x y 0x4
  | .subReg x y => encXyn 0x8 x y 0x5
  | .shr x y => encXyn 0x8 x y 0x6
  | .subnReg x y => encXyn 0x8 x y 0x7
  | .shl x y => encXyn 0x8 x y 0xE
  | .sneReg x y => encXyn 0x9 x y 0x0
  | .ldI nnn => encNnn 0xA nnn
  | .jpV0 nnn => encNnn 0xB nnn
  | .rnd x kk => encXkk 0xC x kk
  | .drw x y n => encXyn 0xD x y n
  | .skp x => encX 0xE x 0x9E
  | .sknp x => encX 0xE x 0xA1
  | .ldVxDt x => encX 0xF x 0x07
  | .ldVxKey x => encX 0xF x 0x0A
  | .ldDtVx x => encX 0xF x 0x15
  | .ldStVx x => encX 0xF x 0x18
  | .addI x => encX 0xF x 0x1E
  | .ldGlyph x => encX 0xF x 0x29
  | .ldBcd x => encX 0xF x 0x33
  | .storeRegs x => encX 0xF x 0x55
  | .loadRegs x => encX 0xF x 0x65

/-- The high byte of a word, stored at the lower address (20_memory.md R43). -/
def highByte (w : Word) : Byte := w.extractLsb' 8 8
/-- The low byte of a word, stored at the higher address (20_memory.md R43). -/
def lowByte (w : Word) : Byte := w.extractLsb' 0 8

/-- The bytes of an instruction as memory holds them (20_memory.md R43). -/
def encodeBytes (i : Instr) : List Byte := [highByte (encode i), lowByte (encode i)]

/-! ### The host's question about a table row -/

/-- The instruction word whose lowest `nbits` bits are `w` and whose other bits are 0. -/
def tableWord (nbits w : Nat) : Word := BitVec.ofNat 16 (w % 2 ^ nbits)

/-- The instruction the decoder reads from a table row's word, laid out in memory order. -/
def decodeTableWord (nbits w : Nat) : Option Instr :=
  match decodeBytes [highByte (tableWord nbits w), lowByte (tableWord nbits w)] with
  | .ok (.instr i, _) => some i
  | .ok (.undefined _, _) => none
  | .error _ => none

end Sys2Proof
end

