-- ==== Sys2Proof/Machine/State.lean ====
section
/-! DEFINITION. The machine's state as plain data (spec/10_state.md), the reasons a run can stop, and
the state after reset. -/

namespace Sys2Proof.Machine

/-- The run state (10_state.md R28). -/
inductive Mode where
  /-- The core fetches and executes. -/
  | run
  /-- An Fx0A waits for a KEY_DOWN event. -/
  | waitKey
  /-- A fault was raised; only RESET leaves. -/
  | fault
  deriving DecidableEq, Repr

/-- The fault causes (60_exceptions.md R160); the code is `Cause.code`. -/
inductive Cause where
  /-- Code 0, while MODE is not FAULT. -/
  | none
  /-- Code 1: an access above address 4095 (R161). -/
  | memOutOfBounds
  /-- Code 2: a seventeenth outstanding call (R162). -/
  | stackOverflow
  /-- Code 3: a return with no outstanding call (R163). -/
  | stackUnderflow
  /-- Code 4: a key instruction with Vx above 15 (R164). -/
  | keyIndexOutOfRange
  deriving DecidableEq, Repr

/-- CAUSE as the 3-bit register the spec numbers (10_state.md R30, 60_exceptions.md R160). -/
def Cause.code : Cause → BitVec 3
  | .none => 0
  | .memOutOfBounds => 1
  | .stackOverflow => 2
  | .stackUnderflow => 3
  | .keyIndexOutOfRange => 4

/-- What the environment does once its planned turns are taken (40_step_cycle.md R80, log 3). -/
inductive Environment where
  /-- The host makes no further move. -/
  | quiet
  /-- Every further turn is free: the next one is `Config.freeTurn next`, then `next + 1`, for ever. -/
  | free (next : Nat)
  deriving DecidableEq, Repr

/-- Columns of the framebuffer are the inner vector, rows the outer one (10_state.md R24). -/
abbrev Screen := Vector (Vector Bool 64) 32

/-- The whole state: first the tuple of 10_state.md, then the machine's FONT, then the model's own
fields. -/
structure State where
  /-- V[0] to V[15] (R10). -/
  v : Vector Byte 16
  /-- I (R16). -/
  i : Word
  /-- PC (R13). -/
  pc : Word
  /-- SP (R17). -/
  sp : Byte
  /-- STACK[0] to STACK[15] (R18). -/
  stack : Vector Word 16
  /-- DT (R21). -/
  dt : Byte
  /-- ST (R22). -/
  st : Byte
  /-- MEM (R23): the cells that differ from the reset contents, by rising address (log 2). -/
  mem : List Host.Cell
  /-- FB (R24). -/
  fb : Screen
  /-- KEY[0] to KEY[15] (R25), true = down. -/
  key : Vector Bool 16
  /-- MODE (R28). -/
  mode : Mode
  /-- WAITX (R29). -/
  waitx : Nibble
  /-- CAUSE (R30). -/
  cause : Cause
  /-- FINFO (R30). -/
  finfo : BitVec 17
  /-- FONT, the machine's open parameter (70_reset_and_hazards.md R192): no move writes it (log 1). -/
  font : Vector Byte 80
  /-- MODEL'S OWN: a RESET has happened and no Step since, so LOAD is admitted (R195, log 6). -/
  loadOpen : Bool
  /-- MODEL'S OWN: the turns planned by the environment, taken first (40_step_cycle.md R80, log 3). -/
  schedule : List Turn
  /-- MODEL'S OWN: what follows the planned turns: the core alone, or free turns without end
  (40_step_cycle.md R80). DESIGN CHOICE, log 3. -/
  environment : Environment
  /-- MODEL'S OWN: bytes supplied for the next draws (43_load_alu.md R133, log 5). -/
  draws : List Byte
  /-- MODEL'S OWN: how many free bytes have been drawn (43_load_alu.md R133, log 5). -/
  drawn : Nat
  deriving DecidableEq, Repr

/-- Why the machine stops. -/
inductive Fault where
  /-- Raised by `step` alone: MODE is FAULT, no turn is planned, and the environment makes no
  further move; the core cannot leave FAULT, only a RESET of the host can (40_step_cycle.md R84,
  60_exceptions.md R169; log 3, log 4). It carries
  CAUSE and FINFO, the "explicit failure result" of R167. No instruction answers with it: the raising
  step itself is a next state. Safe. -/
  | halted (cause : Cause) (finfo : BitVec 17)
  deriving DecidableEq, Repr

/-- What the model gives no meaning. -/
inductive Refusal where
  /-- Raised by an arm of `exec` whose instruction has no meaning yet; safe. -/
  | notModelled (mnemonic : String)
  /-- Raised by the LOAD event outside its place between a RESET and the first Step after it, which
  70_reset_and_hazards.md R195 does not admit (U12: refuse); safe. -/
  | loadNotAdmitted
  deriving DecidableEq, Repr

/-- The result of an operation that can raise a fault: it goes on with a value, or `raise` has ended
the instruction in the state it carries (60_exceptions.md R167, 40_step_cycle.md R86). -/
inductive Run (α : Type) where
  /-- The operation completed with value `a` in state `s`. -/
  | ok (a : α) (s : State)
  /-- The operation raised; `s` is the state after fault entry. -/
  | raised (s : State)
  deriving DecidableEq, Repr

/-- The state after RESET (10_state.md R32). Every register's value is the spec's; `font` is the
default table (log 1), and the model's own fields are as log 3, 5 and 6 say. -/
def State.reset : State where
  v := Vector.replicate 16 0
  i := 0
  pc := 0
  sp := 0
  stack := Vector.replicate 16 0
  dt := 0
  st := 0
  mem := []
  fb := Vector.replicate 32 (Vector.replicate 64 false)
  key := Vector.replicate 16 false
  mode := .run
  waitx := 0
  cause := .none
  finfo := 0
  font := Config.defaultFont
  loadOpen := true
  schedule := []
  environment := .quiet
  draws := []
  drawn := 0

end Sys2Proof.Machine
end

