-- ==== Sys2Proof/Machine/Ops.lean ====
section
/-! DEFINITION. The named operations over registers, memory, stack, keys and the fault entry: the
primitives of spec/00_scope.md R7, which every meaning is written with. -/

namespace Sys2Proof.Machine

/-! ### Registers (10_state.md R10, R11) -/

/-- `V[r]`. -/
def State.readV (s : State) (r : Nibble) : Byte := s.v[r.toNat]'r.isLt

/-- `V[r] <- b`. -/
def State.writeV (s : State) (r : Nibble) (b : Byte) : State :=
  { s with v := s.v.set r.toNat b r.isLt }

/-- `I <- w`. -/
def State.setI (s : State) (w : Word) : State := { s with i := w }

/-- `PC <- w`. -/
def State.setPc (s : State) (w : Word) : State := { s with pc := w }

/-- `SP <- b`. -/
def State.setSp (s : State) (b : Byte) : State := { s with sp := b }

/-- `DT <- b`. -/
def State.setDt (s : State) (b : Byte) : State := { s with dt := b }

/-- `ST <- b`. -/
def State.setSt (s : State) (b : Byte) : State := { s with st := b }

/-- `FB <- f`. -/
def State.setFb (s : State) (f : Screen) : State := { s with fb := f }

/-- `MODE <- m`. -/
def State.setMode (s : State) (m : Mode) : State := { s with mode := m }

/-- `PC <- (PC + 2) mod 65536`: the fetch's advance and the skip (40_step_cycle.md R81, 42_control_flow.md
R100). -/
def State.advancePc (s : State) : State := s.setPc (s.pc + 2)

/-! ### Keys (10_state.md R25) -/

/-- `KEY[k]`, true = down. -/
def State.readKey (s : State) (k : Nibble) : Bool := s.key[k.toNat]'k.isLt

/-- `KEY[k] <- b`. -/
def State.writeKey (s : State) (k : Nibble) (b : Bool) : State :=
  { s with key := s.key.set k.toNat b k.isLt }

/-! ### Fault entry, and the key wait -/

/-- `raise F(info)`: the ONE fault entry (60_exceptions.md R167). It writes CAUSE, FINFO and MODE and
nothing else; there is no return from it (R169), only the host's RESET (`State.resetEvent`). -/
def State.raise (s : State) (c : Cause) (info : Nat) : State :=
  { s with cause := c, finfo := BitVec.ofNat 17 info, mode := .fault }

/-- `WAITX <- x; MODE <- WAIT_KEY` (45_keys_timers.md R153). -/
def State.awaitKey (s : State) (x : Nibble) : State := { s with waitx := x, mode := .waitKey }

/-- The state an operation reached, raised or not. -/
def Run.state {α : Type} : Run α → State
  | .ok _ s => s
  | .raised s => s

/-- What an instruction that may have raised answers: the state reached is the next state in both
cases. -/
def Run.outcome (r : Run Unit) : Host.Outcome State Fault Refusal := .next r.state

/-! ### Memory (20_memory.md) -/

/-- The reset contents of an address: FONT below 80, zero from there up (10_state.md R23, R32). It is
what an unlisted address reads as (log 2). -/
def resetByte (font : Vector Byte 80) (a : Nat) : Byte :=
  if h : a < 80 then font[a] else 0

/-- The byte at an address: the listed one, else the reset contents `d a`. -/
def Memory.get (d : Nat → Byte) : List Host.Cell → Nat → Byte
  | [], a => d a
  | c :: m, a => if c.1 = a then c.2 else Memory.get d m a

/-- Write a byte and keep the list canonical: rising addresses, no cell that holds the reset
contents. -/
def Memory.set (d : Nat → Byte) : List Host.Cell → Nat → Byte → List Host.Cell
  | [], a, b => if b = d a then [] else [(a, b)]
  | c :: m, a, b =>
    if a < c.1 then (if b = d a then c :: m else (a, b) :: c :: m)
    else if a = c.1 then (if b = d a then m else (a, b) :: m)
    else c :: Memory.set d m a b

/-- Every listed address lies above `lo` and the addresses rise, none reaches 4096, and no cell holds
what its address reads as unlisted. -/
def Memory.wfAbove (d : Nat → Byte) : List Host.Cell → Nat → Bool
  | [], _ => true
  | c :: m, lo => decide (lo ≤ c.1) && decide (c.1 < Config.memSize) && (c.2 != d c.1) &&
      Memory.wfAbove d m (c.1 + 1)

/-- The canonical form of memory. -/
def Memory.wf (d : Nat → Byte) (m : List Host.Cell) : Bool := Memory.wfAbove d m 0

/-- The state's memory is in canonical form. -/
def State.memWf (s : State) : Bool := Memory.wf (resetByte s.font) s.mem

/-- `MEM[a]`, with no bounds check. -/
def State.byteAt (s : State) (a : Nat) : Byte := Memory.get (resetByte s.font) s.mem a

/-- `MEM[a] <- b`, with no bounds check. -/
def State.putByte (s : State) (a : Nat) (b : Byte) : State :=
  { s with mem := Memory.set (resetByte s.font) s.mem a b }

/-- `MemRead(a, 1)` (20_memory.md R46); `a` is an unbounded address (R52). -/
def State.memRead (s : State) (a : Nat) : Run Byte :=
  if a > 4095 then .raised (s.raise .memOutOfBounds a) else .ok (s.byteAt a) s

/-- `MemWrite(a, 1, b)` (20_memory.md R46). -/
def State.memWrite (s : State) (a : Nat) (b : Byte) : Run Unit :=
  if a > 4095 then .raised (s.raise .memOutOfBounds a) else .ok () (s.putByte a b)

/-- `MemRead(a, 2)` (20_memory.md R47): the byte at `a` is the high byte (R43). -/
def State.memReadWord (s : State) (a : Nat) : Run Word :=
  if a > 4095 then .raised (s.raise .memOutOfBounds a)
  else if a + 1 > 4095 then .raised (s.raise .memOutOfBounds (a + 1))
  else .ok (s.byteAt a ++ s.byteAt (a + 1)) s

/-- Byte reads at `a, a+1, …`, ascending, stopping at the first that raises (20_memory.md R45). -/
def State.readBytes (s : State) (a : Nat) : Nat → Run (List Byte)
  | 0 => .ok [] s
  | n + 1 =>
    match s.memRead a with
    | .raised t => .raised t
    | .ok b t =>
      match t.readBytes (a + 1) n with
      | .raised u => .raised u
      | .ok bs u => .ok (b :: bs) u

/-- Byte writes at `a, a+1, …`, ascending; a write that raises leaves the earlier ones in place
(20_memory.md R45, 40_step_cycle.md R86). -/
def State.storeBytes (s : State) (a : Nat) : List Byte → Run Unit
  | [] => .ok () s
  | b :: bs =>
    match s.memWrite a b with
    | .raised t => .raised t
    | .ok _ t => t.storeBytes (a + 1) bs

/-- `V[r] <- MemRead(a, 1)` for `n` registers from `r` and addresses from `a`, ascending; a read that
raises leaves the earlier registers loaded (44_index_memory.md R146). -/
def State.loadBytes (s : State) (r a : Nat) : Nat → Run Unit
  | 0 => .ok () s
  | n + 1 =>
    match s.memRead a with
    | .raised t => .raised t
    | .ok b t => (t.writeV (BitVec.ofNat 4 r) b).loadBytes (r + 1) (a + 1) n

/-! ### The call stack (10_state.md R18 to R20) -/

/-- `STACK[k]`. -/
def State.slot (s : State) (k : Nibble) : Word := s.stack[k.toNat]'k.isLt

/-- `STACK[k] <- w`. -/
def State.setSlot (s : State) (k : Nibble) (w : Word) : State :=
  { s with stack := s.stack.set k.toNat w k.isLt }

/-- `Push(w)` (R19); below 16, SP's low four bits are the slot's index. -/
def State.push (s : State) (w : Word) : Run Unit :=
  if s.sp.toNat ≥ 16 then .raised (s.raise .stackOverflow 0)
  else .ok () ((s.setSlot (s.sp.setWidth 4) w).setSp (s.sp + 1))

/-- `Pop()` (R20): the pointer is decremented before it is checked. -/
def State.pop (s : State) : Run Word :=
  let t := s.setSp (s.sp - 1)
  if t.sp.toNat ≥ 16 then .raised (t.raise .stackUnderflow 0)
  else .ok (t.slot (t.sp.setWidth 4)) t

/-! ### The draw (43_load_alu.md R133) -/

/-- The byte `draw()` returns: the next supplied one, or a free byte when none is supplied (log 5). -/
def State.drawByte (s : State) : Byte :=
  match s.draws with
  | b :: _ => b
  | [] => Config.freeDraw s.drawn

/-- One draw is used up: each execution of Cxkk takes a fresh one (R133). -/
def State.consumeDraw (s : State) : State :=
  { s with
    draws := s.draws.tail
    drawn := match s.draws with
      | [] => s.drawn + 1
      | _ :: _ => s.drawn }

end Sys2Proof.Machine
end

