-- ==== Sys2Proof/Machine/Operands.lean ====
section
/-! DEFINITION. The operand forms (spec/30_encoding.md R63, spec/20_memory.md R52): immediates,
addresses and register ranges. -/

namespace Sys2Proof.Machine

/-- The number of the flag register VF (00_scope.md R8, 10_state.md R12). -/
def regVF : Nibble := 15

/-- `zext_16` of the 12-bit address field (R63). -/
def zextAddr (nnn : Addr12) : Word := nnn.setWidth 16

/-- `zext_16` of a register's value (42_control_flow.md R108, 44_index_memory.md R142). -/
def zextByte (b : Byte) : Word := b.setWidth 16

/-- The effective address `I + k`, unbounded: reduced neither modulo 4096 nor modulo 65536 (R52). -/
def State.effAddr (s : State) (k : Nat) : Nat := s.i.toNat + k

/-- V[0] to V[n-1], in order: the bytes Fx55 stores with n = x + 1 (44_index_memory.md R145). -/
def State.firstRegs (s : State) (n : Nat) : List Byte :=
  (List.range n).map fun k => s.readV (BitVec.ofNat 4 k)

/-- The three decimal digits of a byte, hundreds first (44_index_memory.md R144). -/
def bcdDigits (b : Byte) : List Byte :=
  [BitVec.ofNat 8 (b.toNat / 100), BitVec.ofNat 8 (b.toNat / 10 % 10), BitVec.ofNat 8 (b.toNat % 10)]

/-- The address of the glyph of a byte: 5 times the whole byte (44_index_memory.md R143, D7). -/
def glyphAddr (b : Byte) : Word := BitVec.ofNat 16 (Config.glyphBytes * b.toNat)

/-- `PC <- PC + 2` when the condition holds: the skip (42_control_flow.md R100). -/
def State.skipIf (s : State) (c : Bool) : State := if c then s.advancePc else s

/-- The key index of Ex9E and ExA1: V[x], which raises above 15 (45_keys_timers.md R151, D13). -/
def State.keyOperand (s : State) (x : Nibble) : Run Nibble :=
  let k := s.readV x
  if k.toNat > 15 then .raised (s.raise .keyIndexOutOfRange k.toNat) else .ok (k.setWidth 4) s

end Sys2Proof.Machine
end

