-- ==== Sys2Proof/Machine/Flags.lean ====
section
/-! DEFINITION. The flag computations: the six values that are written to VF (spec/10_state.md R12,
spec/43_load_alu.md R120(d)). -/

namespace Sys2Proof.Machine

/-- A flag as VF holds it: 1 or 0 (10_state.md R12). -/
def flagByte (b : Bool) : Byte := if b then 1 else 0

/-- `V[15] <- flag`. -/
def State.setFlag (s : State) (b : Bool) : State := s.writeV regVF (flagByte b)

/-- 8xy4: the unwrapped sum exceeds 255 (43_load_alu.md R127). -/
def carryOut (a b : Byte) : Bool := decide (a.toNat + b.toNat > 255)

/-- 8xy5 and 8xy7: strictly greater, as unsigned bytes (43_load_alu.md R128, R130). -/
def strictlyGreater (a b : Byte) : Bool := decide (a.toNat > b.toNat)

/-- 8xy6: the bit shifted out on the right (43_load_alu.md R129). -/
def lowBit (a : Byte) : Bool := a.getLsbD 0

/-- 8xyE: the bit shifted out on the left (43_load_alu.md R131). -/
def highBit (a : Byte) : Bool := a.getLsbD 7

end Sys2Proof.Machine
end

