-- ==== Sys2Proof/Machine/Alu.lean ====
section
/-! DEFINITION. Register load, arithmetic and logic: 6xkk, 7xkk, 8xy0 to 8xy7, 8xyE, Cxkk
(spec/43_load_alu.md). The flag writers write VF first and then V[x], and the second write reads the
registers as the first left them (R120(e), D3). -/

namespace Sys2Proof.Machine

/-- 6xkk (R121). -/
def execLdImm (x : Nibble) (kk : Byte) (s : State) : Host.Outcome State Fault Refusal :=
  .next (s.writeV x kk)

/-- 7xkk (R122): wraps, sets no flag. -/
def execAddImm (x : Nibble) (kk : Byte) (s : State) : Host.Outcome State Fault Refusal :=
  .next (s.writeV x (s.readV x + kk))

/-- 8xy0 (R123). -/
def execLdReg (x y : Nibble) (s : State) : Host.Outcome State Fault Refusal :=
  .next (s.writeV x (s.readV y))

/-- 8xy1 (R124): VF is not touched. -/
def execOrReg (x y : Nibble) (s : State) : Host.Outcome State Fault Refusal :=
  .next (s.writeV x (s.readV x ||| s.readV y))

/-- 8xy2 (R125): VF is not touched. -/
def execAndReg (x y : Nibble) (s : State) : Host.Outcome State Fault Refusal :=
  .next (s.writeV x (s.readV x &&& s.readV y))

/-- 8xy3 (R126): VF is not touched. -/
def execXorReg (x y : Nibble) (s : State) : Host.Outcome State Fault Refusal :=
  .next (s.writeV x (s.readV x ^^^ s.readV y))

/-- 8xy4 (R127): the sum is taken before VF is written. -/
def execAddReg (x y : Nibble) (s : State) : Host.Outcome State Fault Refusal :=
  let sum := s.readV x + s.readV y
  let t := s.setFlag (carryOut (s.readV x) (s.readV y))
  .next (t.writeV x sum)

/-- 8xy5 (R128): the difference is taken after VF is written. -/
def execSubReg (x y : Nibble) (s : State) : Host.Outcome State Fault Refusal :=
  let t := s.setFlag (strictlyGreater (s.readV x) (s.readV y))
  .next (t.writeV x (t.readV x - t.readV y))

/-- 8xy6 (R129): V[x] is shifted in place, y is ignored (D5); the shift is taken after VF is written. -/
def execShr (x _y : Nibble) (s : State) : Host.Outcome State Fault Refusal :=
  let t := s.setFlag (lowBit (s.readV x))
  .next (t.writeV x (t.readV x >>> 1))

/-- 8xy7 (R130): the difference is taken after VF is written. -/
def execSubnReg (x y : Nibble) (s : State) : Host.Outcome State Fault Refusal :=
  let t := s.setFlag (strictlyGreater (s.readV y) (s.readV x))
  .next (t.writeV x (t.readV y - t.readV x))

/-- 8xyE (R131): V[x] is shifted in place, y is ignored (D5); the shift is taken after VF is written. -/
def execShl (x _y : Nibble) (s : State) : Host.Outcome State Fault Refusal :=
  let t := s.setFlag (highBit (s.readV x))
  .next (t.writeV x (t.readV x <<< 1))

/-- Cxkk (R132): one draw (R133), masked. -/
def execRnd (x : Nibble) (kk : Byte) (s : State) : Host.Outcome State Fault Refusal :=
  .next (s.consumeDraw.writeV x (s.drawByte &&& kk))

end Sys2Proof.Machine
end

