-- ==== Sys2Proof/Machine/Control.lean ====
section
/-! DEFINITION. Control transfer: 00EE, 1nnn, 2nnn, 3xkk, 4xkk, 5xy0, 9xy0, Bnnn
(spec/42_control_flow.md). PC has been advanced by the fetch (R100). -/

namespace Sys2Proof.Machine

/-- 00EE (R101). -/
def execRet (s : State) : Host.Outcome State Fault Refusal :=
  match s.pop with
  | .raised t => .next t
  | .ok w t => .next (t.setPc w)

/-- 1nnn (R102). -/
def execJp (nnn : Addr12) (s : State) : Host.Outcome State Fault Refusal :=
  .next (s.setPc (zextAddr nnn))

/-- 2nnn (R103): the pushed PC is the address of the following instruction. -/
def execCall (nnn : Addr12) (s : State) : Host.Outcome State Fault Refusal :=
  match s.push s.pc with
  | .raised t => .next t
  | .ok _ t => .next (t.setPc (zextAddr nnn))

/-- 3xkk (R104). -/
def execSeImm (x : Nibble) (kk : Byte) (s : State) : Host.Outcome State Fault Refusal :=
  .next (s.skipIf (s.readV x == kk))

/-- 4xkk (R105). -/
def execSneImm (x : Nibble) (kk : Byte) (s : State) : Host.Outcome State Fault Refusal :=
  .next (s.skipIf (s.readV x != kk))

/-- 5xy0 (R106). -/
def execSeReg (x y : Nibble) (s : State) : Host.Outcome State Fault Refusal :=
  .next (s.skipIf (s.readV x == s.readV y))

/-- 9xy0 (R107). -/
def execSneReg (x y : Nibble) (s : State) : Host.Outcome State Fault Refusal :=
  .next (s.skipIf (s.readV x != s.readV y))

/-- Bnnn (R108): always register 0. -/
def execJpV0 (nnn : Addr12) (s : State) : Host.Outcome State Fault Refusal :=
  .next (s.setPc (zextAddr nnn + zextByte (s.readV 0)))

end Sys2Proof.Machine
end

