-- ==== Sys2Proof/Machine/Display.lean ====
section
/-! DEFINITION. The framebuffer, the compositor, and the display instructions 00E0 and Dxyn
(spec/41_display.md). -/

namespace Sys2Proof.Machine

/-- `FB[x,y]`, the coordinates taken modulo 64 and 32 before the access (10_state.md R24). -/
def Screen.pixel (f : Screen) (x y : Nat) : Bool :=
  (f[y % 32]'(Nat.mod_lt _ (by decide)))[x % 64]'(Nat.mod_lt _ (by decide))

/-- `FB[x,y] <- FB[x,y] XOR 1`, at the wrapped coordinates. -/
def Screen.flip (f : Screen) (x y : Nat) : Screen :=
  f.set (y % 32) ((f[y % 32]'(Nat.mod_lt _ (by decide))).set (x % 64) (!f.pixel x y)
    (Nat.mod_lt _ (by decide))) (Nat.mod_lt _ (by decide))

/-- The framebuffer with every pixel 0 (41_display.md R91). -/
def Screen.clear : Screen := Vector.replicate 32 (Vector.replicate 64 false)

/-- One sprite bit at `(x, y)`: a set bit flips the pixel and records a collision if it was set (R92). -/
def Screen.plot (bit : Bool) (x y : Nat) (acc : Screen × Bool) : Screen × Bool :=
  if bit then (acc.1.flip x y, acc.2 || acc.1.pixel x y) else acc

/-- One sprite row: columns 0 to 7, bit 7 leftmost (R92). -/
def Screen.drawRow (px y : Nat) (row : Byte) (acc : Screen × Bool) : Screen × Bool :=
  (List.range 8).foldl (fun acc c => Screen.plot (row.getLsbD (7 - c)) (px + c) y acc) acc

/-- The sprite's rows from row `y` downward (R92). -/
def Screen.drawRows (px y : Nat) : List Byte → Screen × Bool → Screen × Bool
  | [], acc => acc
  | row :: rows, acc => Screen.drawRows px (y + 1) rows (Screen.drawRow px y row acc)

/-- `DrawSprite(px, py, rows)`: the new framebuffer and the collision bit (R92). -/
def Screen.drawSprite (f : Screen) (px py : Byte) (rows : List Byte) : Screen × Bool :=
  Screen.drawRows px.toNat py.toNat rows (f, false)

/-- 00E0 (R91). -/
def execCls (s : State) : Host.Outcome State Fault Refusal := .next (s.setFb Screen.clear)

/-- Dxyn (R93): the coordinates are read, then all sprite bytes, then FB and VF are written (D26). -/
def execDrw (x y n : Nibble) (s : State) : Host.Outcome State Fault Refusal :=
  let px := s.readV x
  let py := s.readV y
  match s.readBytes (s.effAddr 0) n.toNat with
  | .raised t => .next t
  | .ok rows t =>
    let r := t.fb.drawSprite px py rows
    .next ((t.setFb r.1).setFlag r.2)

end Sys2Proof.Machine
end

