-- ==== Sys2Proof/Machine/Index.lean ====
section
/-! DEFINITION. Index register and memory: Annn, Fx1E, Fx29, Fx33, Fx55, Fx65
(spec/44_index_memory.md). No access modifies I (R140, D6). -/

namespace Sys2Proof.Machine

/-- Annn (R141). -/
def execLdI (nnn : Addr12) (s : State) : Host.Outcome State Fault Refusal :=
  .next (s.setI (zextAddr nnn))

/-- Fx1E (R142): modulo 65536, no flag (D8). -/
def execAddI (x : Nibble) (s : State) : Host.Outcome State Fault Refusal :=
  .next (s.setI (s.i + zextByte (s.readV x)))

/-- Fx29 (R143): the whole byte, not masked (D7). -/
def execLdGlyph (x : Nibble) (s : State) : Host.Outcome State Fault Refusal :=
  .next (s.setI (glyphAddr (s.readV x)))

/-- Fx33 (R144). -/
def execLdBcd (x : Nibble) (s : State) : Host.Outcome State Fault Refusal :=
  (s.storeBytes (s.effAddr 0) (bcdDigits (s.readV x))).outcome

/-- Fx55 (R145): x + 1 bytes. -/
def execStoreRegs (x : Nibble) (s : State) : Host.Outcome State Fault Refusal :=
  (s.storeBytes (s.effAddr 0) (s.firstRegs (x.toNat + 1))).outcome

/-- Fx65 (R146): x + 1 bytes. -/
def execLoadRegs (x : Nibble) (s : State) : Host.Outcome State Fault Refusal :=
  (s.loadBytes 0 (s.effAddr 0) (x.toNat + 1)).outcome

end Sys2Proof.Machine
end

