-- ==== Sys2Proof/Machine/Keys.lean ====
section
/-! DEFINITION. Keys and timers, the program's side: Ex9E, ExA1, Fx07, Fx0A, Fx15, Fx18
(spec/45_keys_timers.md). -/

namespace Sys2Proof.Machine

/-- Ex9E (R151). -/
def execSkp (x : Nibble) (s : State) : Host.Outcome State Fault Refusal :=
  match s.keyOperand x with
  | .raised t => .next t
  | .ok k t => .next (t.skipIf (t.readKey k))

/-- ExA1 (R152). -/
def execSknp (x : Nibble) (s : State) : Host.Outcome State Fault Refusal :=
  match s.keyOperand x with
  | .raised t => .next t
  | .ok k t => .next (t.skipIf (!t.readKey k))

/-- Fx07 (R154). -/
def execLdVxDt (x : Nibble) (s : State) : Host.Outcome State Fault Refusal :=
  .next (s.writeV x s.dt)

/-- Fx0A (R153): the wait begins; V[x] is written by the KEY_DOWN that ends it (`State.keyDown`). -/
def execLdVxKey (x : Nibble) (s : State) : Host.Outcome State Fault Refusal :=
  .next (s.awaitKey x)

/-- Fx15 (R155). -/
def execLdDtVx (x : Nibble) (s : State) : Host.Outcome State Fault Refusal :=
  .next (s.setDt (s.readV x))

/-- Fx18 (R156). -/
def execLdStVx (x : Nibble) (s : State) : Host.Outcome State Fault Refusal :=
  .next (s.setSt (s.readV x))

end Sys2Proof.Machine
end

