-- ==== Sys2Proof/Machine/HostEvents.lean ====
section
/-! DEFINITION. The host's moves: RESET, LOAD, TICK, KEY_DOWN, KEY_UP, SNAPSHOT
(spec/60_exceptions.md R173 to R180, spec/70_reset_and_hazards.md R190 to R195), and what each
reports to the host. -/

namespace Sys2Proof.Machine

/-- RESET (70 R190): every piece of state of 10_state.md R32 at its reset value. What is not the
machine's to reset stays: FONT, the turns to come, the supply of draws (log 8). -/
def State.resetEvent (s : State) : State :=
  { State.reset with
    font := s.font
    schedule := s.schedule
    environment := s.environment
    draws := s.draws
    drawn := s.drawn }

/-- The bytes of a program image, from address `a` up (70 R193). -/
def State.putBytes (s : State) (a : Nat) : List Byte → State
  | [] => s
  | b :: bs => (s.putByte a b).putBytes (a + 1) bs

/-- LOAD, where it is admitted (70 R193, R194): an image that is too large changes nothing. -/
def State.loadEvent (s : State) (rom : List Byte) : State :=
  if romFits rom then (s.putBytes Config.programBase rom).setPc (BitVec.ofNat 16 Config.programBase)
  else s

/-- LOAD's place: after a RESET and before the first Step that follows (70 R195), so never in
FAULT (U12). -/
def State.loadAdmitted (s : State) : Bool := s.loadOpen && (s.mode == .run)

/-- One tick of one timer: down by 1, staying at 0 (60 R173). -/
def tickDown (b : Byte) : Byte := if b = 0 then 0 else b - 1

/-- TICK (60 R173). -/
def State.tick (s : State) : State := (s.setDt (tickDown s.dt)).setSt (tickDown s.st)

/-- The end of a key wait: `V[WAITX] <- k; MODE <- RUN` (60 R176). -/
def State.resolveKey (s : State) (k : Nibble) : State :=
  (s.writeV s.waitx (k.setWidth 8)).setMode .run

/-- KEY_DOWN(k) (60 R176). -/
def State.keyDown (s : State) (k : Nibble) : State :=
  let t := s.writeKey k true
  match t.mode with
  | .waitKey => t.resolveKey k
  | .run => t
  | .fault => t

/-- KEY_UP(k) (60 R177). -/
def State.keyUp (s : State) (k : Nibble) : State := s.writeKey k false

/-- One move of the host. -/
def hostMove (e : HostEvent) (s : State) : Host.Outcome State Fault Refusal :=
  match e with
  | .reset => .next s.resetEvent
  | .load rom => if s.loadAdmitted then .next (s.loadEvent rom) else .refused .loadNotAdmitted
  | .tick => .next s.tick
  | .keyDown k => .next (s.keyDown k)
  | .keyUp k => .next (s.keyUp k)
  | .snapshot => .next s

/-- What an event reports to the host. -/
inductive Reply where
  /-- The event reports nothing; so does a LOAD that is refused. -/
  | nothing
  /-- LOAD succeeded (70 R193). -/
  | loaded
  /-- LOAD failed: program too large (70 R194). -/
  | programTooLarge
  /-- SNAPSHOT's grid (60 R180). -/
  | grid (f : Screen)
  deriving DecidableEq, Repr

/-- The report of an event raised in state `s` (60 R179, R180; 70 R194; log 9). DESIGN CHOICE: a LOAD out
of its place, which `hostMove` refuses, reports nothing; the spec has no such move (70 R195, U12). -/
def replyTo (e : HostEvent) (s : State) : Reply :=
  match e with
  | .reset => .nothing
  | .load rom =>
    if s.loadAdmitted then (if romFits rom then .loaded else .programTooLarge) else .nothing
  | .tick => .nothing
  | .keyDown _ => .nothing
  | .keyUp _ => .nothing
  | .snapshot => .grid s.fb

end Sys2Proof.Machine
end

