-- ==== Sys2Proof/Machine/Cycle.lean ====
section
/-! DEFINITION. The step cycle of the core: fetch, decode, execute (spec/40_step_cycle.md R81 to R84),
and what a turn of the core is in each MODE. -/

namespace Sys2Proof.Machine

/-! ### Whose move is next (R80, log 3) -/

/-- The turn an environment with no planned turn left takes next. -/
def Environment.turn : Environment → Turn
  | .quiet => .core
  | .free k => Config.freeTurn k

/-- The environment after that turn. -/
def Environment.next : Environment → Environment
  | .quiet => .quiet
  | .free k => .free (k + 1)

/-- The next turn: the first planned one, else the environment's. -/
def State.nextTurn (s : State) : Turn :=
  match s.schedule with
  | t :: _ => t
  | [] => s.environment.turn

/-- The turn that is being taken leaves the plan, or uses up a free turn when none is planned. -/
def State.endTurn (s : State) : State :=
  { s with
    schedule := s.schedule.tail
    environment := match s.schedule with
      | _ :: _ => s.environment
      | [] => s.environment.next }

/-- No host move is left: none is planned and the environment makes no further one. -/
def State.planEnded (s : State) : Bool := (s.schedule == []) && (s.environment == .quiet)

/-- The next turn is the core's. -/
def State.coreNext (s : State) : Bool :=
  match s.nextTurn with
  | .core => true
  | .host _ => false

/-! ### The Step -/

/-- A Step ends the time in which LOAD is admitted (70_reset_and_hazards.md R195, log 6). -/
def State.closeLoad (s : State) : State := { s with loadOpen := false }

/-- The fetch (R81): the word at PC, then PC + 2; a fetch that raises leaves PC alone (D2). -/
def State.fetch (s : State) : Run Word :=
  match s.memReadWord s.pc.toNat with
  | .raised t => .raised t
  | .ok w t => .ok w t.advancePc

/-- `Exec(w)` (R82); an undefined word does nothing (R83). -/
def execWord (w : Word) (s : State) : Host.Outcome State Fault Refusal :=
  match decode w with
  | .instr i => exec i s
  | .undefined _ => .next s

/-- `Step()` (R81). -/
def coreStep (s : State) : Host.Outcome State Fault Refusal :=
  match s.closeLoad.fetch with
  | .raised t => .next t
  | .ok w t => execWord w t

/-- A turn given to the core: a Step in RUN; in WAIT_KEY and FAULT the core has no move (R84), so the
turn passes and nothing changes (log 4). -/
def coreTurn (s : State) : Host.Outcome State Fault Refusal :=
  match s.mode with
  | .run => coreStep s
  | .waitKey => .next s
  | .fault => .next s

/-- The core's turn when no host move is left: as `coreTurn`, but in FAULT the run then stops
with the failure result of 60_exceptions.md R167 (log 3, log 4). -/
def coreAlone (s : State) : Host.Outcome State Fault Refusal :=
  match s.mode with
  | .run => coreTurn s
  | .waitKey => coreTurn s
  | .fault => .fault (.halted s.cause s.finfo)

/-- One turn. -/
def takeTurn (t : Turn) (s : State) : Host.Outcome State Fault Refusal :=
  match t with
  | .core => coreTurn s
  | .host e => hostMove e s

/-! ### Placing an instruction for the host's question -/

/-- The core is about to step: its turn, in RUN, at a PC from which a word can be read. Where one of
these does not hold, the least that makes it hold is changed (log 7). -/
def State.readyToFetch (s : State) : State :=
  { s with
    schedule := match s.schedule, s.environment with
      | [], .quiet => []
      | .core :: ts, _ => .core :: ts
      | ts, _ => .core :: ts
    mode := .run
    cause := .none
    finfo := 0
    pc := if s.pc.toNat ≤ 4094 then s.pc else BitVec.ofNat 16 Config.programBase }

/-- A word stored at PC, high byte first (20_memory.md R43). -/
def State.putWordAtPc (s : State) (w : Word) : State :=
  s.putBytes s.pc.toNat [highByte w, lowByte w]

end Sys2Proof.Machine
end

