-- ==== Sys2Proof/Machine/Step.lean ====
section
/-! DEFINITION. One step of the machine: the next turn, planned or the environment's (spec/40_step_cycle.md
R80, R81, R84). -/

namespace Sys2Proof.Machine

/-- One move of the machine: the next planned turn; with none planned, the environment's next free turn,
or the core's where the environment makes no further move (log 3). -/
def step (s : State) : Host.Outcome State Fault Refusal :=
  if s.planEnded then coreAlone s else takeTurn s.nextTurn s.endTurn

/-- `s` with the instruction whose table bits are `w` stored where the next step fetches (log 7). -/
def State.withFetchWord (s : State) (nbits w : Nat) : State :=
  s.readyToFetch.putWordAtPc (tableWord nbits w)

end Sys2Proof.Machine
end

