-- ==== Sys2Proof/Safety.lean ====
section
/-! DEFINITION. The terms claims are stated in: which parts of two states agree, what a fault record
is, when an instruction runs without a fault, and the invariants of the machine. -/

namespace Sys2Proof.Machine

/-! ### Frames -/

/-- The pieces of state, one name each (10_state.md; the last six are FONT and the model's own). -/
inductive Component where
  | v | i | pc | sp | stack | dt | st | mem | fb | key | mode | waitx | cause | finfo
  | font | loadOpen | schedule | environment | draws | drawn
  deriving DecidableEq, Repr

/-- The two states agree on a component; arrays are compared element by element, through the reads
the instructions use. -/
def Agree (c : Component) (s t : State) : Prop :=
  match c with
  | .v => ∀ r, t.readV r = s.readV r
  | .i => t.i = s.i
  | .pc => t.pc = s.pc
  | .sp => t.sp = s.sp
  | .stack => ∀ k, t.slot k = s.slot k
  | .dt => t.dt = s.dt
  | .st => t.st = s.st
  | .mem => ∀ a, t.byteAt a = s.byteAt a
  | .fb => ∀ x y, t.fb.pixel x y = s.fb.pixel x y
  | .key => ∀ k, t.readKey k = s.readKey k
  | .mode => t.mode = s.mode
  | .waitx => t.waitx = s.waitx
  | .cause => t.cause = s.cause
  | .finfo => t.finfo = s.finfo
  | .font => t.font = s.font
  | .loadOpen => t.loadOpen = s.loadOpen
  | .schedule => t.schedule = s.schedule
  | .environment => t.environment = s.environment
  | .draws => t.draws = s.draws
  | .drawn => t.drawn = s.drawn

/-- From `s` to `t` nothing changes outside the listed components. -/
def SameExcept (cs : List Component) (s t : State) : Prop := ∀ c, c ∉ cs → Agree c s t

/-- From `s` to `t` no general register changes but those of `p`. -/
def OnlyRegs (p : Nibble → Prop) (s t : State) : Prop := ∀ r, ¬ p r → t.readV r = s.readV r

/-- From `s` to `t` no byte of memory changes outside the addresses of `p`. -/
def OnlyBytes (p : Nat → Prop) (s t : State) : Prop := ∀ a, ¬ p a → t.byteAt a = s.byteAt a

/-- The general registers an instruction may write: its x where it writes one, VF for the six flag
writers, V0 to Vx for Fx65 (10_state.md R11, R12). -/
def MayWrite (i : Instr) (r : Nibble) : Prop :=
  match i with
  | .ldImm x _ | .addImm x _ | .rnd x _ => r = x
  | .ldReg x _ | .orReg x _ | .andReg x _ | .xorReg x _ => r = x
  | .addReg x _ | .subReg x _ | .shr x _ | .subnReg x _ | .shl x _ => r = x ∨ r = 15
  | .drw _ _ _ => r = 15
  | .ldVxDt x => r = x
  | .loadRegs x => r.toNat ≤ x.toNat
  | .cls | .ret | .jp _ | .call _ | .seImm _ _ | .sneImm _ _ | .seReg _ _ | .sneReg _ _ | .ldI _
  | .jpV0 _ | .skp _ | .sknp _ | .ldVxKey _ | .ldDtVx _ | .ldStVx _ | .addI _ | .ldGlyph _
  | .ldBcd _ | .storeRegs _ => False

/-! ### The opcode table as the spec prints it -/

/-- The match and mask columns of 30_encoding.md R64, row by row. -/
def specTable : List (Word × Word) :=
  [(0x00E0, 0xFFFF), (0x00EE, 0xFFFF), (0x1000, 0xF000), (0x2000, 0xF000), (0x3000, 0xF000),
   (0x4000, 0xF000), (0x5000, 0xF00F), (0x6000, 0xF000), (0x7000, 0xF000), (0x8000, 0xF00F),
   (0x8001, 0xF00F), (0x8002, 0xF00F), (0x8003, 0xF00F), (0x8004, 0xF00F), (0x8005, 0xF00F),
   (0x8006, 0xF00F), (0x8007, 0xF00F), (0x800E, 0xF00F), (0x9000, 0xF00F), (0xA000, 0xF000),
   (0xB000, 0xF000), (0xC000, 0xF000), (0xD000, 0xF000), (0xE09E, 0xF0FF), (0xE0A1, 0xF0FF),
   (0xF007, 0xF0FF), (0xF00A, 0xF0FF), (0xF015, 0xF0FF), (0xF018, 0xF0FF), (0xF01E, 0xF0FF),
   (0xF029, 0xF0FF), (0xF033, 0xF0FF), (0xF055, 0xF0FF), (0xF065, 0xF0FF)]

/-! ### Faults -/

/-- `t` is a state in FAULT with this cause and this information value (60_exceptions.md R167). -/
def Faulted (c : Cause) (info : Nat) (t : State) : Prop :=
  t.mode = .fault ∧ t.cause = c ∧ t.finfo.toNat = info

/-- The first address above 4095 among `a, a+1, …` (60_exceptions.md R160). -/
def firstOutOfRange (a : Nat) : Nat := if a ≤ 4095 then 4096 else a

/-- The conditions of 70_reset_and_hazards.md R200 under which an instruction raises no fault. -/
def FaultFree (i : Instr) (s : State) : Prop :=
  match i with
  | .ret => 1 ≤ s.sp.toNat ∧ s.sp.toNat ≤ 16
  | .call _ => s.sp.toNat < 16
  | .drw _ _ n => s.i.toNat + n.toNat ≤ 4096 ∨ n = 0
  | .skp x => (s.readV x).toNat ≤ 15
  | .sknp x => (s.readV x).toNat ≤ 15
  | .ldBcd _ => s.i.toNat + 2 ≤ 4095
  | .storeRegs x => s.i.toNat + x.toNat ≤ 4095
  | .loadRegs x => s.i.toNat + x.toNat ≤ 4095
  | .cls | .jp _ | .seImm _ _ | .sneImm _ _ | .seReg _ _ | .ldImm _ _ | .addImm _ _ | .ldReg _ _
  | .orReg _ _ | .andReg _ _ | .xorReg _ _ | .addReg _ _ | .subReg _ _ | .shr _ _ | .subnReg _ _
  | .shl _ _ | .sneReg _ _ | .ldI _ | .jpV0 _ | .rnd _ _ | .ldVxDt _ | .ldVxKey _ | .ldDtVx _
  | .ldStVx _ | .addI _ | .ldGlyph _ => True

/-- The eight instructions that can fault in execute (40_step_cycle.md R86). -/
def CanFault (i : Instr) : Prop :=
  match i with
  | .ret | .call _ | .drw _ _ _ | .skp _ | .sknp _ | .ldBcd _ | .storeRegs _ | .loadRegs _ => True
  | .cls | .jp _ | .seImm _ _ | .sneImm _ _ | .seReg _ _ | .ldImm _ _ | .addImm _ _ | .ldReg _ _
  | .orReg _ _ | .andReg _ _ | .xorReg _ _ | .addReg _ _ | .subReg _ _ | .shr _ _ | .subnReg _ _
  | .shl _ _ | .sneReg _ _ | .ldI _ | .jpV0 _ | .rnd _ _ | .ldVxDt _ | .ldVxKey _ | .ldDtVx _
  | .ldStVx _ | .addI _ | .ldGlyph _ => False

/-- A safe state: no fault has been raised. -/
def State.safe (s : State) : Prop := s.mode ≠ .fault

/-! ### The step cycle -/

/-- The word the next fetch reads, when it reads one (20_memory.md R43). -/
def State.wordAtPc (s : State) : Word := s.byteAt s.pc.toNat ++ s.byteAt (s.pc.toNat + 1)

/-- It is the core's turn and the core has a Step: MODE is RUN (40_step_cycle.md R81). -/
def State.aboutToStep (s : State) : Prop := s.coreNext = true ∧ s.mode = .run

/-- The state a Step starts its execute half from when it does not raise in the fetch: the turn is
taken, LOAD is no longer admitted, PC is advanced (40_step_cycle.md R81). -/
def State.afterFetch (s : State) : State := s.endTurn.closeLoad.advancePc

/-- The next turn is this event of the host. -/
def State.hostNext (s : State) (e : HostEvent) : Prop := s.nextTurn = .host e

/-! ### The sprite as a grid (41_display.md R92) -/

/-- The sprite bit that falls on pixel `(x, y)` of a sprite drawn at `(px, py)`; false where the
sprite does not reach. -/
def spriteBit (px py : Byte) (rows : List Byte) (x y : Nat) : Bool :=
  let c := (x + 256 - px.toNat) % 64
  let r := (y + 256 - py.toNat) % 32
  match rows[r]? with
  | some b => decide (c < 8) && b.getLsbD (7 - c)
  | none => false

/-! ### Invariants -/

/-- CAUSE and FINFO are 0 outside FAULT, and in FAULT they are a row of the table of
60_exceptions.md R160. -/
def State.faultRecordOk (s : State) : Prop :=
  match s.mode, s.cause with
  | .run, c => c = .none ∧ s.finfo = 0
  | .waitKey, c => c = .none ∧ s.finfo = 0
  | .fault, .none => False
  | .fault, .memOutOfBounds => 4096 ≤ s.finfo.toNat ∧ s.finfo.toNat ≤ 65550
  | .fault, .stackOverflow => s.finfo = 0
  | .fault, .stackUnderflow => s.finfo = 0
  | .fault, .keyIndexOutOfRange => 16 ≤ s.finfo.toNat ∧ s.finfo.toNat ≤ 255

/-- SP holds 0 to 16, except that it is 0xFF after a stack underflow (10_state.md R17, R20). -/
def State.spOk (s : State) : Prop :=
  s.sp.toNat ≤ 16 ∨ (s.mode = .fault ∧ s.cause = .stackUnderflow ∧ s.sp = 0xFF)

/-- PC stays below 4351 and every stack slot below 4097, so that PC + 2 never wraps (10_state.md
R15). -/
def State.pcOk (s : State) : Prop := s.pc.toNat ≤ 4350 ∧ ∀ k, (s.slot k).toNat ≤ 4096

/-- LOAD is admitted only while no fault and no wait is possible (70_reset_and_hazards.md R195). -/
def State.loadOpenOk (s : State) : Prop := s.loadOpen = true → s.mode = .run

/-- The invariant of the machine: it holds after RESET and every move keeps it. -/
structure State.Inv (s : State) : Prop where
  memWf : s.memWf = true
  faultRecord : s.faultRecordOk
  sp : s.spOk
  pc : s.pcOk
  loadOpen : s.loadOpenOk

/-- The state of 10_state.md R32 for a machine whose FONT is `font`. -/
structure AfterReset (font : Vector Byte 80) (t : State) : Prop where
  v : ∀ r, t.readV r = 0
  i : t.i = 0
  pc : t.pc = 0
  sp : t.sp = 0
  stack : ∀ k, t.slot k = 0
  dt : t.dt = 0
  st : t.st = 0
  fontBytes : ∀ (a : Nat) (h : a < 80), t.byteAt a = font[a]
  zeroBytes : ∀ a, 80 ≤ a → a ≤ 4095 → t.byteAt a = 0
  fb : ∀ x y, t.fb.pixel x y = false
  key : ∀ k, t.readKey k = false
  mode : t.mode = .run
  waitx : t.waitx = 0
  cause : t.cause.code = 0
  finfo : t.finfo = 0

end Sys2Proof.Machine
end

