-- ==== Sys2Proof/Certificates/Slice0/Obligations.lean ====
section
/-! DEFINITION. The statements for the provers. Each docstring names the rule or the spec's decision the
statement formalises, and says where a clause is the model's own choice. -/

open Sys2Proof Sys2Proof.Machine

/-- O1. Encode, then decode: no field is dropped, for every instruction at every field value. -/
def Obligations.DecodingAnEncodedInstructionGivesItBack : Prop :=
  ∀ (i : Instr) (rest : List Byte),
    decode (encode i) = .instr i ∧ decodeBytes (encodeBytes i ++ rest) = .ok (.instr i, rest)

/-- O2. Decode, then encode: no two words decode to the same instruction term. Two terms may still do
the same, as 8xy6 and 8xyE do for every y (43_load_alu.md R129, R131). -/
def Obligations.EncodingADecodedWordGivesItBack : Prop :=
  ∀ (w : Word) (i : Instr), decode w = .instr i → encode i = w

/-- O3. Decode(w) of 30_encoding.md R70, with the 34 rows of R64 written out. -/
def Obligations.DecodeFollowsMatchAndMask : Prop :=
  ∀ w : Word,
    let x : Nibble := w.extractLsb' 8 4
    let y : Nibble := w.extractLsb' 4 4
    let n : Nibble := w.extractLsb' 0 4
    let kk : Byte := w.extractLsb' 0 8
    let nnn : Addr12 := w.extractLsb' 0 12
    (w &&& 0xFFFF = 0x00E0 → decode w = .instr .cls) ∧
    (w &&& 0xFFFF = 0x00EE → decode w = .instr .ret) ∧
    (w &&& 0xF000 = 0x1000 → decode w = .instr (.jp nnn)) ∧
    (w &&& 0xF000 = 0x2000 → decode w = .instr (.call nnn)) ∧
    (w &&& 0xF000 = 0x3000 → decode w = .instr (.seImm x kk)) ∧
    (w &&& 0xF000 = 0x4000 → decode w = .instr (.sneImm x kk)) ∧
    (w &&& 0xF00F = 0x5000 → decode w = .instr (.seReg x y)) ∧
    (w &&& 0xF000 = 0x6000 → decode w = .instr (.ldImm x kk)) ∧
    (w &&& 0xF000 = 0x7000 → decode w = .instr (.addImm x kk)) ∧
    (w &&& 0xF00F = 0x8000 → decode w = .instr (.ldReg x y)) ∧
    (w &&& 0xF00F = 0x8001 → decode w = .instr (.orReg x y)) ∧
    (w &&& 0xF00F = 0x8002 → decode w = .instr (.andReg x y)) ∧
    (w &&& 0xF00F = 0x8003 → decode w = .instr (.xorReg x y)) ∧
    (w &&& 0xF00F = 0x8004 → decode w = .instr (.addReg x y)) ∧
    (w &&& 0xF00F = 0x8005 → decode w = .instr (.subReg x y)) ∧
    (w &&& 0xF00F = 0x8006 → decode w = .instr (.shr x y)) ∧
    (w &&& 0xF00F = 0x8007 → decode w = .instr (.subnReg x y)) ∧
    (w &&& 0xF00F = 0x800E → decode w = .instr (.shl x y)) ∧
    (w &&& 0xF00F = 0x9000 → decode w = .instr (.sneReg x y)) ∧
    (w &&& 0xF000 = 0xA000 → decode w = .instr (.ldI nnn)) ∧
    (w &&& 0xF000 = 0xB000 → decode w = .instr (.jpV0 nnn)) ∧
    (w &&& 0xF000 = 0xC000 → decode w = .instr (.rnd x kk)) ∧
    (w &&& 0xF000 = 0xD000 → decode w = .instr (.drw x y n)) ∧
    (w &&& 0xF0FF = 0xE09E → decode w = .instr (.skp x)) ∧
    (w &&& 0xF0FF = 0xE0A1 → decode w = .instr (.sknp x)) ∧
    (w &&& 0xF0FF = 0xF007 → decode w = .instr (.ldVxDt x)) ∧
    (w &&& 0xF0FF = 0xF00A → decode w = .instr (.ldVxKey x)) ∧
    (w &&& 0xF0FF = 0xF015 → decode w = .instr (.ldDtVx x)) ∧
    (w &&& 0xF0FF = 0xF018 → decode w = .instr (.ldStVx x)) ∧
    (w &&& 0xF0FF = 0xF01E → decode w = .instr (.addI x)) ∧
    (w &&& 0xF0FF = 0xF029 → decode w = .instr (.ldGlyph x)) ∧
    (w &&& 0xF0FF = 0xF033 → decode w = .instr (.ldBcd x)) ∧
    (w &&& 0xF0FF = 0xF055 → decode w = .instr (.storeRegs x)) ∧
    (w &&& 0xF0FF = 0xF065 → decode w = .instr (.loadRegs x)) ∧
    ((∀ row ∈ specTable, w &&& row.2 ≠ row.1) → decode w = .undefined w)

/-- O4. The enumeration of 30_encoding.md R65 (the exactness of the match is the spec's decision D4). -/
def Obligations.UndefinedWordsAreExactlyTheListed : Prop :=
  ∀ w : Word,
    let op : Nibble := w.extractLsb' 12 4
    let n : Nibble := w.extractLsb' 0 4
    let kk : Byte := w.extractLsb' 0 8
    decode w = .undefined w ↔
      (op = 0x0 ∧ w ≠ 0x00E0 ∧ w ≠ 0x00EE) ∨
      (op = 0x5 ∧ n ≠ 0) ∨
      (op = 0x8 ∧ n ∈ ([0x8, 0x9, 0xA, 0xB, 0xC, 0xD, 0xF] : List Nibble)) ∨
      (op = 0x9 ∧ n ≠ 0) ∨
      (op = 0xE ∧ kk ∉ ([0x9E, 0xA1] : List Byte)) ∨
      (op = 0xF ∧ kk ∉ ([0x07, 0x0A, 0x15, 0x18, 0x1E, 0x29, 0x33, 0x55, 0x65] : List Byte))

/-- O5. A few words of 95_test_vectors.md. -/
def Obligations.SampleWordsDecodeAsTheSpecWritesThem : Prop :=
  decode 0x6A7F = .instr (.ldImm 0xA 0x7F) ∧ decode 0x2ABC = .instr (.call 0xABC) ∧
  decode 0x8F15 = .instr (.subReg 0xF 1) ∧ decode 0xB300 = .instr (.jpV0 0x300) ∧
  decode 0xD125 = .instr (.drw 1 2 5) ∧ decode 0xE19E = .instr (.skp 1) ∧
  decode 0xF10A = .instr (.ldVxKey 1) ∧ decode 0xF255 = .instr (.storeRegs 2) ∧
  decode 0x5121 = .undefined 0x5121 ∧ decode 0x8128 = .undefined 0x8128

/-- O6. 40_step_cycle.md R83; `schedule`, `environment` and `loadOpen` are the model's own fields (log
3, log 6). -/
def Obligations.UndefinedWordOnlyAdvancesPc : Prop :=
  (∀ (w : Word) (s : State), decode w = .undefined w → execWord w s = .next s) ∧
  ∀ s : State, s.aboutToStep → s.pc.toNat ≤ 4094 → decode s.wordAtPc = .undefined s.wordAtPc →
    ∃ t, step s = .next t ∧ t.pc = s.pc + 2 ∧ SameExcept [.pc, .schedule, .environment, .loadOpen] s t

/-- O7. 40_step_cycle.md R81 and R82; that the core owns the fetch is the spec's decision D1; the plan
of turns is the model's (log 3), the LOAD window too (log 6). -/
def Obligations.StepRunsTheDecodedInstruction : Prop :=
  ∀ (s : State) (i : Instr), s.aboutToStep → s.pc.toNat ≤ 4094 → decode s.wordAtPc = .instr i →
    i.wellFormed = true ∧ step s = exec i s.afterFetch ∧ s.afterFetch.pc = s.pc + 2 ∧
    s.afterFetch.schedule = s.schedule.tail ∧ s.afterFetch.loadOpen = false ∧
    (s.schedule ≠ [] → s.afterFetch.environment = s.environment) ∧
    (s.schedule = [] → s.afterFetch.environment = s.environment.next) ∧
    SameExcept [.pc, .schedule, .environment, .loadOpen] s s.afterFetch

/-- O8. 40_step_cycle.md R81: PC unchanged is the spec's decision D2, the fault registers are D10; the
plan of turns and the LOAD window are the model's (log 3, log 6). -/
def Obligations.FetchRaisesExactlyAbove4094 : Prop :=
  ∀ s : State,
    (s.aboutToStep → 4095 ≤ s.pc.toNat → ∃ t, step s = .next t ∧
      Faulted .memOutOfBounds (if s.pc.toNat = 4095 then 4096 else s.pc.toNat) t ∧ t.pc = s.pc ∧
      SameExcept [.mode, .cause, .finfo, .schedule, .environment, .loadOpen] s t) ∧
    (s.pc.toNat ≤ 4094 → ∃ (w : Word) (t : State), s.fetch = .ok w t ∧
      w.toNat = 256 * (s.byteAt s.pc.toNat).toNat + (s.byteAt (s.pc.toNat + 1)).toNat ∧
      t.pc.toNat = s.pc.toNat + 2 ∧ SameExcept [.pc] s t)

/-- O9. 40_step_cycle.md R84; what `step` answers where the core has no Step is the model's choice
(log 3, log 4). -/
def Obligations.CoreHasNoStepOutsideRun : Prop :=
  ∀ s : State, s.coreNext = true → s.mode ≠ .run →
    (s.mode = .fault ∧ s.planEnded = true → step s = .fault (.halted s.cause s.finfo)) ∧
    (¬(s.mode = .fault ∧ s.planEnded = true) →
      ∃ t, step s = .next t ∧ SameExcept [.schedule, .environment] s t)

/-- O10. The transitions of 10_state.md R28 (MODE itself is the spec's decision D10, D14), over every
move; whose move is next is read from the model's plan of turns (log 3). -/
def Obligations.ModeChangesOnlyAsListed : Prop :=
  ∀ s t : State, step s = .next t → t.mode ≠ s.mode →
    (s.hostNext .reset ∧ t.mode = .run) ∨
    (s.mode = .waitKey ∧ t.mode = .run ∧ ∃ k, s.hostNext (.keyDown k)) ∨
    (s.aboutToStep ∧ t.mode = .waitKey ∧ s.pc.toNat ≤ 4094 ∧
      ∃ x, decode s.wordAtPc = .instr (.ldVxKey x) ∧ t.waitx = x) ∨
    (s.aboutToStep ∧ t.mode = .fault ∧ t.cause ≠ .none)

/-- O11. 10_state.md R15 (derived there), R17, R20 (D12), R30 (D10), 60_exceptions.md R160, R161; the
canonical memory list is the model's (log 2), the LOAD window too (log 6). -/
def Obligations.EveryMoveKeepsTheInvariant : Prop :=
  ∀ s t : State, s.Inv → step s = .next t → t.Inv

/-- O12. The base of the invariant (10_state.md R32). -/
def Obligations.ResetMeetsTheInvariant : Prop :=
  State.reset.Inv ∧ ∀ s t : State, hostMove .reset s = .next t → t.Inv

/-- O13. 70_reset_and_hazards.md R192 calls the font fixed; holding it in State is the model's choice
(log 1). -/
def Obligations.NoMoveWritesTheFont : Prop :=
  ∀ s t : State, step s = .next t → t.font = s.font

/-- O14. 70_reset_and_hazards.md R200 and 60_exceptions.md R161 to R165; the key-index fault is the
spec's decision D13, unbounded addresses D9. -/
def Obligations.InstructionFaultsExactlyOutsideItsSafeRegion : Prop :=
  ∀ (i : Instr) (s : State), s.mode ≠ .fault →
    ∃ t, exec i s = .next t ∧ (t.mode = .fault ↔ ¬ FaultFree i s)

/-- O15. The 'changed by' sentences of 10_state.md and 20_memory.md R45, over all 34 instructions (I
unchanged by accesses is D6; the fault registers are D10, and the eight instructions that can
fault are listed in 40_step_cycle.md R86). FONT, the plan of turns, the LOAD window and the draws
are the model's own fields (log 1, 3, 6, 5). -/
def Obligations.InstructionsChangeOnlyTheirUnits : Prop :=
  ∀ (i : Instr) (s t : State), exec i s = .next t →
    OnlyRegs (MayWrite i) s t ∧
    (t.i ≠ s.i → (∃ nnn, i = .ldI nnn) ∨ (∃ x, i = .addI x) ∨ ∃ x, i = .ldGlyph x) ∧
    (t.pc ≠ s.pc → i = .ret ∨ (∃ nnn, i = .jp nnn ∨ i = .call nnn ∨ i = .jpV0 nnn) ∨
      (∃ x kk, i = .seImm x kk ∨ i = .sneImm x kk) ∨ (∃ x y, i = .seReg x y ∨ i = .sneReg x y) ∨
      ∃ x, i = .skp x ∨ i = .sknp x) ∧
    (t.sp ≠ s.sp → i = .ret ∨ ∃ nnn, i = .call nnn) ∧
    (¬ Agree .stack s t → ∃ nnn, i = .call nnn) ∧
    (t.dt ≠ s.dt → ∃ x, i = .ldDtVx x) ∧
    (t.st ≠ s.st → ∃ x, i = .ldStVx x) ∧
    (¬ Agree .mem s t → ∃ x, i = .ldBcd x ∨ i = .storeRegs x) ∧
    (¬ Agree .fb s t → i = .cls ∨ ∃ x y n, i = .drw x y n) ∧
    (t.waitx ≠ s.waitx → ∃ x, i = .ldVxKey x) ∧
    (t.cause ≠ s.cause ∨ t.finfo ≠ s.finfo → CanFault i) ∧
    (t.mode ≠ s.mode → CanFault i ∨ ∃ x, i = .ldVxKey x) ∧
    (t.draws ≠ s.draws ∨ t.drawn ≠ s.drawn → ∃ x kk, i = .rnd x kk) ∧
    Agree .key s t ∧ t.font = s.font ∧ t.schedule = s.schedule ∧
    t.environment = s.environment ∧ t.loadOpen = s.loadOpen

/-- O16. 10_state.md R22: no instruction reads ST. -/
def Obligations.NoInstructionReadsTheSoundTimer : Prop :=
  ∀ (i : Instr) (s : State) (b : Byte),
    ∃ t u, exec i s = .next t ∧ exec i (s.setSt b) = .next u ∧ SameExcept [.st] t u

/-- O17. 40_step_cycle.md R80; the account of turns (log 3) and the refusal (log 6) are the model's
choices. -/
def Obligations.HostTurnIsTheHostsMove : Prop :=
  ∀ (s : State) (e : HostEvent), s.hostNext e →
    step s = hostMove e s.endTurn ∧
    ((∃ t, step s = .next t) ∨
      (∃ rom, e = .load rom) ∧ s.loadAdmitted = false ∧ step s = .refused .loadNotAdmitted)

/-- O18. 20_memory.md R46. -/
def Obligations.WrittenByteReadsBack : Prop :=
  ∀ (s : State) (a : Nat) (v : Byte), s.memWf = true →
    (a ≤ 4095 → s.memRead a = .ok (s.byteAt a) s ∧ ∃ t, s.memWrite a v = .ok () t ∧
      t.memRead a = .ok v t ∧ OnlyBytes (· = a) s t ∧ SameExcept [.mem] s t) ∧
    (4095 < a → s.memRead a = .raised (s.raise .memOutOfBounds a) ∧
      s.memWrite a v = .raised (s.raise .memOutOfBounds a) ∧
      SameExcept [.mode, .cause, .finfo] s (s.raise .memOutOfBounds a))

/-- O19. 20_memory.md R47; which address is recorded is the spec's decision D10. -/
def Obligations.WordReadIsBigEndian : Prop :=
  ∀ (s : State) (a : Nat),
    (a ≤ 4094 → ∃ w : Word, s.memReadWord a = .ok w s ∧
      w.toNat = 256 * (s.byteAt a).toNat + (s.byteAt (a + 1)).toNat) ∧
    (a = 4095 → s.memReadWord a = .raised (s.raise .memOutOfBounds 4096)) ∧
    (4096 ≤ a → s.memReadWord a = .raised (s.raise .memOutOfBounds a))

/-- O20. 10_state.md R18 to R20. -/
def Obligations.CallStackIsLastInFirstOut : Prop :=
  ∀ (s : State) (w : Word),
    (s.sp.toNat < 16 → ∃ t, s.push w = .ok () t ∧ t.sp.toNat = s.sp.toNat + 1 ∧
      (∀ k : Nibble, k.toNat ≠ s.sp.toNat → t.slot k = s.slot k) ∧
      ∃ u, t.pop = .ok w u ∧ u.sp = s.sp) ∧
    (16 ≤ s.sp.toNat → ∃ t, s.push w = .raised t ∧ Faulted .stackOverflow 0 t ∧
      Agree .stack s t ∧ Agree .sp s t)

/-- O21. 41_display.md R91. -/
def Obligations.ClsClearsEveryPixel : Prop :=
  decode 0x00E0 = .instr .cls ∧
  ∀ s : State, ∃ t, exec .cls s = .next t ∧ (∀ x y, t.fb.pixel x y = false) ∧ SameExcept [.fb] s t

/-- O22. 41_display.md R92, R93: all bytes are read first by the spec's decision D26. Words Dxyn
decode so. -/
def Obligations.DrwXorsTheSpriteAndReportsCollision : Prop :=
  ∀ (x y n : Nibble) (s : State), n = 0 ∨ s.i.toNat + n.toNat ≤ 4096 →
    decode ((0xD : Nibble) ++ (x ++ (y ++ n : BitVec 8) : BitVec 12) : BitVec 16) = .instr (.drw x y n) ∧
    ∃ t, exec (.drw x y n) s = .next t ∧
      let rows := (List.range n.toNat).map fun r => s.byteAt (s.effAddr r)
      (∀ X Y, t.fb.pixel X Y =
        (s.fb.pixel X Y ^^ spriteBit (s.readV x) (s.readV y) rows X Y)) ∧
      ((∃ X Y, s.fb.pixel X Y = true ∧ spriteBit (s.readV x) (s.readV y) rows X Y = true) →
        t.readV 15 = 1) ∧
      ((¬ ∃ X Y, s.fb.pixel X Y = true ∧ spriteBit (s.readV x) (s.readV y) rows X Y = true) →
        t.readV 15 = 0) ∧
      OnlyRegs (· = 15) s t ∧ SameExcept [.v, .fb] s t

/-- O23. 41_display.md R93: the read fault precedes the compositing (D26); no address wraps (D9). -/
def Obligations.DrwOutOfRangeDrawsNothing : Prop :=
  ∀ (x y n : Nibble) (s : State), n ≠ 0 → 4096 < s.i.toNat + n.toNat →
    ∃ t, exec (.drw x y n) s = .next t ∧
      Faulted .memOutOfBounds (if s.i.toNat ≤ 4095 then 4096 else s.i.toNat) t ∧
      SameExcept [.mode, .cause, .finfo] s t

/-- O24. 41_display.md R93's corner case. The spec's derived sentence says the second draw collides
exactly when the sprite has a 1 bit; by R92 that needs a clear pixel under it, which is what is
stated here (log 12). -/
def Obligations.DrawingTwiceRestoresTheScreen : Prop :=
  ∀ (x y n : Nibble) (s t : State), x ≠ 15 → y ≠ 15 → FaultFree (.drw x y n) s →
    exec (.drw x y n) s = .next t →
    ∃ u, exec (.drw x y n) t = .next u ∧ Agree .fb s u ∧
      let rows := (List.range n.toNat).map fun r => s.byteAt (s.effAddr r)
      (u.readV 15 = 1 ↔
        ∃ X Y, s.fb.pixel X Y = false ∧ spriteBit (s.readV x) (s.readV y) rows X Y = true)

/-- O25. 42_control_flow.md R101 where the pop succeeds. -/
def Obligations.RetPopsTheReturnAddress : Prop :=
  decode 0x00EE = .instr .ret ∧
  ∀ s : State, 1 ≤ s.sp.toNat → s.sp.toNat ≤ 16 → ∃ t, exec .ret s = .next t ∧
    t.pc = s.slot (BitVec.ofNat 4 (s.sp.toNat - 1)) ∧ t.sp.toNat = s.sp.toNat - 1 ∧
    SameExcept [.pc, .sp] s t

/-- O26. 10_state.md R20: SP = 0xFF is the spec's decision D12. -/
def Obligations.RetOnAnEmptyStackFaults : Prop :=
  ∀ s : State, s.sp.toNat = 0 ∨ 16 < s.sp.toNat → ∃ t, exec .ret s = .next t ∧
    Faulted .stackUnderflow 0 t ∧ t.sp = s.sp - 1 ∧ (s.sp = 0 → t.sp = 0xFF) ∧
    SameExcept [.sp, .mode, .cause, .finfo] s t

/-- O27. 42_control_flow.md R103 where the push succeeds. -/
def Obligations.CallPushesAndJumps : Prop :=
  ∀ (nnn : Addr12) (s : State), s.sp.toNat < 16 →
    decode ((0x2 : Nibble) ++ nnn : BitVec 16) = .instr (.call nnn) ∧
    ∃ t, exec (.call nnn) s = .next t ∧
      t.slot (BitVec.ofNat 4 s.sp.toNat) = s.pc ∧
      (∀ k : Nibble, k.toNat ≠ s.sp.toNat → t.slot k = s.slot k) ∧
      t.sp.toNat = s.sp.toNat + 1 ∧ t.pc.toNat = nnn.toNat ∧ SameExcept [.stack, .sp, .pc] s t

/-- O28. 42_control_flow.md R103 and 60_exceptions.md R162; the fault registers are the spec's
decision D10. -/
def Obligations.SeventeenthCallFaults : Prop :=
  ∀ (nnn : Addr12) (s : State), 16 ≤ s.sp.toNat → ∃ t, exec (.call nnn) s = .next t ∧
    Faulted .stackOverflow 0 t ∧ SameExcept [.mode, .cause, .finfo] s t

/-- O29. 42_control_flow.md R103: 'a matching 00EE therefore resumes after the call'. Calls nested in
between may have overwritten the slots above (10_state.md R18). -/
def Obligations.ReturnResumesAfterTheCall : Prop :=
  ∀ (nnn : Addr12) (s t u : State), s.sp.toNat < 16 → exec (.call nnn) s = .next t →
    u.sp = t.sp → u.slot (BitVec.ofNat 4 s.sp.toNat) = t.slot (BitVec.ofNat 4 s.sp.toNat) →
    ∃ v, exec .ret u = .next v ∧ v.pc = s.pc ∧ v.sp = s.sp

/-- O30. 42_control_flow.md R102, R108. -/
def Obligations.JumpsSetPc : Prop :=
  ∀ (nnn : Addr12) (s : State),
    decode ((0x1 : Nibble) ++ nnn : BitVec 16) = .instr (.jp nnn) ∧
    decode ((0xB : Nibble) ++ nnn : BitVec 16) = .instr (.jpV0 nnn) ∧
    (∃ t, exec (.jp nnn) s = .next t ∧ t.pc.toNat = nnn.toNat ∧ SameExcept [.pc] s t) ∧
    ∃ t, exec (.jpV0 nnn) s = .next t ∧ t.pc.toNat = (nnn.toNat + (s.readV 0).toNat) % 65536 ∧
      SameExcept [.pc] s t

/-- O31. 42_control_flow.md R104 to R107. -/
def Obligations.SkipsAddTwoExactlyOnTheirCondition : Prop :=
  ∀ (x y : Nibble) (kk : Byte) (s : State),
    decode ((0x3 : Nibble) ++ (x ++ kk : BitVec 12) : BitVec 16) = .instr (.seImm x kk) ∧
    decode ((0x4 : Nibble) ++ (x ++ kk : BitVec 12) : BitVec 16) = .instr (.sneImm x kk) ∧
    decode ((0x5 : Nibble) ++ (x ++ (y ++ (0x0 : Nibble) : BitVec 8) : BitVec 12) : BitVec 16) =
      .instr (.seReg x y) ∧
    decode ((0x9 : Nibble) ++ (x ++ (y ++ (0x0 : Nibble) : BitVec 8) : BitVec 12) : BitVec 16) =
      .instr (.sneReg x y) ∧
    (∃ t, exec (.seImm x kk) s = .next t ∧
      t.pc = (if s.readV x = kk then s.pc + 2 else s.pc) ∧ SameExcept [.pc] s t) ∧
    (∃ t, exec (.sneImm x kk) s = .next t ∧
      t.pc = (if s.readV x ≠ kk then s.pc + 2 else s.pc) ∧ SameExcept [.pc] s t) ∧
    (∃ t, exec (.seReg x y) s = .next t ∧
      t.pc = (if s.readV x = s.readV y then s.pc + 2 else s.pc) ∧ SameExcept [.pc] s t) ∧
    ∃ t, exec (.sneReg x y) s = .next t ∧
      t.pc = (if s.readV x ≠ s.readV y then s.pc + 2 else s.pc) ∧ SameExcept [.pc] s t

/-- O32. 43_load_alu.md R121, R123 to R126. -/
def Obligations.LoadsAndLogicWriteOnlyVx : Prop :=
  ∀ (x y : Nibble) (kk : Byte) (s : State),
    decode ((0x6 : Nibble) ++ (x ++ kk : BitVec 12) : BitVec 16) = .instr (.ldImm x kk) ∧
    decode ((0x8 : Nibble) ++ (x ++ (y ++ (0x0 : Nibble) : BitVec 8) : BitVec 12) : BitVec 16) =
      .instr (.ldReg x y) ∧
    decode ((0x8 : Nibble) ++ (x ++ (y ++ (0x1 : Nibble) : BitVec 8) : BitVec 12) : BitVec 16) =
      .instr (.orReg x y) ∧
    decode ((0x8 : Nibble) ++ (x ++ (y ++ (0x2 : Nibble) : BitVec 8) : BitVec 12) : BitVec 16) =
      .instr (.andReg x y) ∧
    decode ((0x8 : Nibble) ++ (x ++ (y ++ (0x3 : Nibble) : BitVec 8) : BitVec 12) : BitVec 16) =
      .instr (.xorReg x y) ∧
    (∃ t, exec (.ldImm x kk) s = .next t ∧ t.readV x = kk ∧
      OnlyRegs (· = x) s t ∧ SameExcept [.v] s t) ∧
    (∃ t, exec (.ldReg x y) s = .next t ∧ t.readV x = s.readV y ∧
      OnlyRegs (· = x) s t ∧ SameExcept [.v] s t) ∧
    (∃ t, exec (.orReg x y) s = .next t ∧ t.readV x = s.readV x ||| s.readV y ∧
      OnlyRegs (· = x) s t ∧ SameExcept [.v] s t) ∧
    (∃ t, exec (.andReg x y) s = .next t ∧ t.readV x = s.readV x &&& s.readV y ∧
      OnlyRegs (· = x) s t ∧ SameExcept [.v] s t) ∧
    ∃ t, exec (.xorReg x y) s = .next t ∧ t.readV x = s.readV x ^^^ s.readV y ∧
      OnlyRegs (· = x) s t ∧ SameExcept [.v] s t

/-- O33. 43_load_alu.md R122. -/
def Obligations.AddImmediateWrapsWithoutFlag : Prop :=
  ∀ (x : Nibble) (kk : Byte) (s : State),
    decode ((0x7 : Nibble) ++ (x ++ kk : BitVec 12) : BitVec 16) = .instr (.addImm x kk) ∧
    ∃ t, exec (.addImm x kk) s = .next t ∧
      (t.readV x).toNat = ((s.readV x).toNat + kk.toNat) % 256 ∧
      OnlyRegs (· = x) s t ∧ SameExcept [.v] s t

/-- O34. 43_load_alu.md R127; the order of the two writes, which decides x = 15 and y = 15, is the
spec's decision D3. -/
def Obligations.AddRegistersSetsCarry : Prop :=
  ∀ (x y : Nibble) (s : State),
    decode ((0x8 : Nibble) ++ (x ++ (y ++ (0x4 : Nibble) : BitVec 8) : BitVec 12) : BitVec 16) =
      .instr (.addReg x y) ∧
    ∃ t, exec (.addReg x y) s = .next t ∧
      (t.readV x).toNat = ((s.readV x).toNat + (s.readV y).toNat) % 256 ∧
      (x ≠ 15 → t.readV 15 = if 255 < (s.readV x).toNat + (s.readV y).toNat then 1 else 0) ∧
      OnlyRegs (fun r => r = x ∨ r = 15) s t ∧ SameExcept [.v] s t

/-- O35. 43_load_alu.md R128; the order of the two writes, which decides x = 15 and y = 15, is the
spec's decision D3. -/
def Obligations.SubtractSetsStrictlyGreater : Prop :=
  ∀ (x y : Nibble) (s : State),
    decode ((0x8 : Nibble) ++ (x ++ (y ++ (0x5 : Nibble) : BitVec 8) : BitVec 12) : BitVec 16) =
      .instr (.subReg x y) ∧
    ∃ t, exec (.subReg x y) s = .next t ∧
      let flag : Byte := if (s.readV y).toNat < (s.readV x).toNat then 1 else 0
      let vx : Byte := if x = 15 then flag else s.readV x
      let vy : Byte := if y = 15 then flag else s.readV y
      (t.readV x).toNat = (256 + vx.toNat - vy.toNat) % 256 ∧
      (x ≠ 15 → t.readV 15 = flag) ∧
      OnlyRegs (fun r => r = x ∨ r = 15) s t ∧ SameExcept [.v] s t

/-- O36. 43_load_alu.md R130; the order of the two writes is the spec's decision D3. -/
def Obligations.ReverseSubtractSetsStrictlyGreater : Prop :=
  ∀ (x y : Nibble) (s : State),
    decode ((0x8 : Nibble) ++ (x ++ (y ++ (0x7 : Nibble) : BitVec 8) : BitVec 12) : BitVec 16) =
      .instr (.subnReg x y) ∧
    ∃ t, exec (.subnReg x y) s = .next t ∧
      let flag : Byte := if (s.readV x).toNat < (s.readV y).toNat then 1 else 0
      let vx : Byte := if x = 15 then flag else s.readV x
      let vy : Byte := if y = 15 then flag else s.readV y
      (t.readV x).toNat = (256 + vy.toNat - vx.toNat) % 256 ∧
      (x ≠ 15 → t.readV 15 = flag) ∧
      OnlyRegs (fun r => r = x ∨ r = 15) s t ∧ SameExcept [.v] s t

/-- O37. 43_load_alu.md R129, R131; ignoring y is D5, the order of writes D3. -/
def Obligations.ShiftsMoveOneBitIntoVf : Prop :=
  ∀ (x y : Nibble) (s : State),
    decode ((0x8 : Nibble) ++ (x ++ (y ++ (0x6 : Nibble) : BitVec 8) : BitVec 12) : BitVec 16) =
      .instr (.shr x y) ∧
    decode ((0x8 : Nibble) ++ (x ++ (y ++ (0xE : Nibble) : BitVec 8) : BitVec 12) : BitVec 16) =
      .instr (.shl x y) ∧
    (∃ t, exec (.shr x y) s = .next t ∧
      (x ≠ 15 → (t.readV x).toNat = (s.readV x).toNat / 2 ∧
        (t.readV 15).toNat = (s.readV x).toNat % 2) ∧
      (x = 15 → t.readV 15 = 0) ∧
      OnlyRegs (fun r => r = x ∨ r = 15) s t ∧ SameExcept [.v] s t) ∧
    ∃ t, exec (.shl x y) s = .next t ∧
      (x ≠ 15 → (t.readV x).toNat = 2 * (s.readV x).toNat % 256 ∧
        t.readV 15 = if 128 ≤ (s.readV x).toNat then 1 else 0) ∧
      (x = 15 → t.readV 15 = if 128 ≤ (s.readV 15).toNat then 2 else 0) ∧
      OnlyRegs (fun r => r = x ∨ r = 15) s t ∧ SameExcept [.v] s t

/-- O38. 43_load_alu.md R132, R133 (D16); how a draw reaches the step is the model's choice (log 5).
Nothing rests on the value of Config.freeDraw. -/
def Obligations.RandomIsADrawnByteMasked : Prop :=
  ∀ (x : Nibble) (kk : Byte) (s : State),
    decode ((0xC : Nibble) ++ (x ++ kk : BitVec 12) : BitVec 16) = .instr (.rnd x kk) ∧
    ∃ t, exec (.rnd x kk) s = .next t ∧
      (∀ b rest, s.draws = b :: rest →
        t.readV x = b &&& kk ∧ t.draws = rest ∧ t.drawn = s.drawn) ∧
      (s.draws = [] →
        t.readV x = Config.freeDraw s.drawn &&& kk ∧ t.draws = [] ∧ t.drawn = s.drawn + 1) ∧
      OnlyRegs (· = x) s t ∧ SameExcept [.v, .draws, .drawn] s t

/-- O39. 44_index_memory.md R141. -/
def Obligations.LoadIndexSetsI : Prop :=
  ∀ (nnn : Addr12) (s : State),
    decode ((0xA : Nibble) ++ nnn : BitVec 16) = .instr (.ldI nnn) ∧
    ∃ t, exec (.ldI nnn) s = .next t ∧ t.i.toNat = nnn.toNat ∧ SameExcept [.i] s t

/-- O40. 44_index_memory.md R142, R143; the wrap is the spec's decision D8, no masking D7. -/
def Obligations.AddToIndexAndGlyphAddress : Prop :=
  ∀ (x : Nibble) (s : State),
    decode ((0xF : Nibble) ++ (x ++ (0x1E : Byte) : BitVec 12) : BitVec 16) = .instr (.addI x) ∧
    decode ((0xF : Nibble) ++ (x ++ (0x29 : Byte) : BitVec 12) : BitVec 16) = .instr (.ldGlyph x) ∧
    (∃ t, exec (.addI x) s = .next t ∧
      t.i.toNat = (s.i.toNat + (s.readV x).toNat) % 65536 ∧ SameExcept [.i] s t) ∧
    ∃ t, exec (.ldGlyph x) s = .next t ∧ t.i.toNat = 5 * (s.readV x).toNat ∧ SameExcept [.i] s t

/-- O41. 44_index_memory.md R144 where no store raises. -/
def Obligations.BcdStoresThreeDigits : Prop :=
  ∀ (x : Nibble) (s : State), s.effAddr 2 ≤ 4095 →
    decode ((0xF : Nibble) ++ (x ++ (0x33 : Byte) : BitVec 12) : BitVec 16) = .instr (.ldBcd x) ∧
    ∃ t, exec (.ldBcd x) s = .next t ∧
      (s.memWf = true →
        (t.byteAt (s.effAddr 0)).toNat = (s.readV x).toNat / 100 ∧
        (t.byteAt (s.effAddr 1)).toNat = (s.readV x).toNat / 10 % 10 ∧
        (t.byteAt (s.effAddr 2)).toNat = (s.readV x).toNat % 10) ∧
      OnlyBytes (fun a => s.effAddr 0 ≤ a ∧ a ≤ s.effAddr 2) s t ∧ SameExcept [.mem] s t

/-- O42. 44_index_memory.md R144; that the earlier digits stay is the spec's decision D11. -/
def Obligations.BcdOutOfRangeKeepsTheDigitsThatFit : Prop :=
  ∀ (x : Nibble) (s : State), 4095 < s.effAddr 2 → ∃ t, exec (.ldBcd x) s = .next t ∧
    Faulted .memOutOfBounds (if s.effAddr 0 ≤ 4095 then 4096 else s.effAddr 0) t ∧
    (s.memWf = true → ∀ k, k < 3 → s.effAddr k ≤ 4095 →
      (t.byteAt (s.effAddr k)).toNat = (s.readV x).toNat / 10 ^ (2 - k) % 10) ∧
    OnlyBytes (fun a => s.effAddr 0 ≤ a ∧ a ≤ 4095) s t ∧
    SameExcept [.mem, .mode, .cause, .finfo] s t

/-- O43. 44_index_memory.md R145 where no store raises; I unchanged is the spec's decision D6. -/
def Obligations.StoreRegistersWritesV0ToVx : Prop :=
  ∀ (x : Nibble) (s : State), s.effAddr x.toNat ≤ 4095 →
    decode ((0xF : Nibble) ++ (x ++ (0x55 : Byte) : BitVec 12) : BitVec 16) = .instr (.storeRegs x) ∧
    ∃ t, exec (.storeRegs x) s = .next t ∧
      (s.memWf = true → ∀ r : Nibble, r.toNat ≤ x.toNat →
        t.byteAt (s.effAddr r.toNat) = s.readV r) ∧
      OnlyBytes (fun a => s.effAddr 0 ≤ a ∧ a ≤ s.effAddr x.toNat) s t ∧ SameExcept [.mem] s t

/-- O44. 44_index_memory.md R145; that the earlier bytes stay is the spec's decision D11. -/
def Obligations.StoreRegistersOutOfRangeKeepsTheBytesThatFit : Prop :=
  ∀ (x : Nibble) (s : State), 4095 < s.effAddr x.toNat → ∃ t, exec (.storeRegs x) s = .next t ∧
    Faulted .memOutOfBounds (if s.effAddr 0 ≤ 4095 then 4096 else s.effAddr 0) t ∧
    (s.memWf = true → ∀ r : Nibble, s.effAddr r.toNat ≤ 4095 →
      t.byteAt (s.effAddr r.toNat) = s.readV r) ∧
    OnlyBytes (fun a => s.effAddr 0 ≤ a ∧ a ≤ 4095) s t ∧
    SameExcept [.mem, .mode, .cause, .finfo] s t

/-- O45. 44_index_memory.md R146 where no read raises; I unchanged is the spec's decision D6. -/
def Obligations.LoadRegistersReadsV0ToVx : Prop :=
  ∀ (x : Nibble) (s : State), s.effAddr x.toNat ≤ 4095 →
    decode ((0xF : Nibble) ++ (x ++ (0x65 : Byte) : BitVec 12) : BitVec 16) = .instr (.loadRegs x) ∧
    ∃ t, exec (.loadRegs x) s = .next t ∧
      (∀ r : Nibble, r.toNat ≤ x.toNat → t.readV r = s.byteAt (s.effAddr r.toNat)) ∧
      OnlyRegs (fun r => r.toNat ≤ x.toNat) s t ∧ SameExcept [.v] s t

/-- O46. 44_index_memory.md R146; that the earlier registers stay loaded is the spec's decision D11. -/
def Obligations.LoadRegistersOutOfRangeKeepsTheBytesRead : Prop :=
  ∀ (x : Nibble) (s : State), 4095 < s.effAddr x.toNat → ∃ t, exec (.loadRegs x) s = .next t ∧
    Faulted .memOutOfBounds (if s.effAddr 0 ≤ 4095 then 4096 else s.effAddr 0) t ∧
    (∀ r : Nibble, s.effAddr r.toNat ≤ 4095 → t.readV r = s.byteAt (s.effAddr r.toNat)) ∧
    OnlyRegs (fun r => s.effAddr r.toNat ≤ 4095) s t ∧ SameExcept [.v, .mode, .cause, .finfo] s t

/-- O47. 44_index_memory.md R146: 'Fx65 after Fx55 with the same x and I restores V[0] … V[x]'. -/
def Obligations.StoredRegistersLoadBack : Prop :=
  ∀ (x : Nibble) (s t u : State), s.memWf = true → s.effAddr x.toNat ≤ 4095 →
    exec (.storeRegs x) s = .next t → u.i = s.i → Agree .mem t u →
    ∃ v, exec (.loadRegs x) u = .next v ∧ ∀ r : Nibble, r.toNat ≤ x.toNat → v.readV r = s.readV r

/-- O48. 45_keys_timers.md R154, R155, R156. -/
def Obligations.TimerInstructionsMoveOneByte : Prop :=
  ∀ (x : Nibble) (s : State),
    decode ((0xF : Nibble) ++ (x ++ (0x07 : Byte) : BitVec 12) : BitVec 16) = .instr (.ldVxDt x) ∧
    decode ((0xF : Nibble) ++ (x ++ (0x15 : Byte) : BitVec 12) : BitVec 16) = .instr (.ldDtVx x) ∧
    decode ((0xF : Nibble) ++ (x ++ (0x18 : Byte) : BitVec 12) : BitVec 16) = .instr (.ldStVx x) ∧
    (∃ t, exec (.ldVxDt x) s = .next t ∧ t.readV x = s.dt ∧ OnlyRegs (· = x) s t ∧
      SameExcept [.v] s t) ∧
    (∃ t, exec (.ldDtVx x) s = .next t ∧ t.dt = s.readV x ∧ SameExcept [.dt] s t) ∧
    ∃ t, exec (.ldStVx x) s = .next t ∧ t.st = s.readV x ∧ SameExcept [.st] s t

/-- O49. 45_keys_timers.md R151, R152 where no fault is raised. -/
def Obligations.KeySkipsTestTheKeyOfVx : Prop :=
  ∀ (x : Nibble) (s : State), (s.readV x).toNat ≤ 15 →
    decode ((0xE : Nibble) ++ (x ++ (0x9E : Byte) : BitVec 12) : BitVec 16) = .instr (.skp x) ∧
    decode ((0xE : Nibble) ++ (x ++ (0xA1 : Byte) : BitVec 12) : BitVec 16) = .instr (.sknp x) ∧
    (∃ t, exec (.skp x) s = .next t ∧
      t.pc = (if s.readKey (BitVec.ofNat 4 (s.readV x).toNat) = true then s.pc + 2 else s.pc) ∧
      SameExcept [.pc] s t) ∧
    ∃ t, exec (.sknp x) s = .next t ∧
      t.pc = (if s.readKey (BitVec.ofNat 4 (s.readV x).toNat) = true then s.pc else s.pc + 2) ∧
      SameExcept [.pc] s t

/-- O50. 45_keys_timers.md R151, R152; the fault is the spec's decision D13. -/
def Obligations.KeySkipsFaultAboveFifteen : Prop :=
  ∀ (x : Nibble) (s : State), 15 < (s.readV x).toNat →
    (∃ t, exec (.skp x) s = .next t ∧ Faulted .keyIndexOutOfRange (s.readV x).toNat t ∧
      SameExcept [.mode, .cause, .finfo] s t) ∧
    ∃ t, exec (.sknp x) s = .next t ∧ Faulted .keyIndexOutOfRange (s.readV x).toNat t ∧
      SameExcept [.mode, .cause, .finfo] s t

/-- O51. 45_keys_timers.md R153 and 60_exceptions.md R176; the form of the wait is the spec's decision
D14. That WAITX keeps its value when KEY_DOWN ends the wait, a part of the frame after KEY_DOWN,
is the model's inference (log 13). -/
def Obligations.KeyWaitEndsAtTheNextKeyDown : Prop :=
  ∀ (x k : Nibble) (s u : State),
    decode ((0xF : Nibble) ++ (x ++ (0x0A : Byte) : BitVec 12) : BitVec 16) = .instr (.ldVxKey x) ∧
    (∃ t, exec (.ldVxKey x) s = .next t ∧ t.mode = .waitKey ∧ t.waitx = x ∧
      SameExcept [.mode, .waitx] s t) ∧
    (u.mode = .waitKey → u.waitx = x →
      (∃ v, hostMove (.keyDown k) u = .next v ∧ v.mode = .run ∧ (v.readV x).toNat = k.toNat ∧
        v.readKey k = true ∧ OnlyRegs (· = x) u v ∧ (∀ j, j ≠ k → v.readKey j = u.readKey j) ∧
        SameExcept [.v, .key, .mode] u v) ∧
      (∃ v, hostMove (.keyUp k) u = .next v ∧ v.mode = .waitKey ∧ Agree .v u v) ∧
      ∃ v, hostMove .tick u = .next v ∧ v.mode = .waitKey ∧ Agree .v u v)

/-- O52. 60_exceptions.md R173; that TICK is accepted in every MODE is the spec's decision D15. -/
def Obligations.TickCountsTheTimersDownToZero : Prop :=
  ∀ s : State, ∃ t, hostMove .tick s = .next t ∧ t.dt.toNat = s.dt.toNat - 1 ∧
    t.st.toNat = s.st.toNat - 1 ∧ SameExcept [.dt, .st] s t

/-- O53. 60_exceptions.md R177. -/
def Obligations.KeyUpClearsOneKey : Prop :=
  ∀ (k : Nibble) (s : State), ∃ t, hostMove (.keyUp k) s = .next t ∧ t.readKey k = false ∧
    (∀ j, j ≠ k → t.readKey j = s.readKey j) ∧ SameExcept [.key] s t

/-- O54. 60_exceptions.md R176 outside a wait; the wait is KeyWaitEndsAtTheNextKeyDown. -/
def Obligations.KeyDownOutsideAWaitSetsOneKey : Prop :=
  ∀ (k : Nibble) (s : State), s.mode ≠ .waitKey → ∃ t, hostMove (.keyDown k) s = .next t ∧
    t.readKey k = true ∧ (∀ j, j ≠ k → t.readKey j = s.readKey j) ∧ SameExcept [.key] s t

/-- O55. 10_state.md R32, 70_reset_and_hazards.md R190. The values of FONT are left open (log 1); that
RESET keeps the machine's FONT is the model's choice of where FONT stands (log 8). -/
def Obligations.ResetGivesTheTabledState : Prop :=
  (∀ s : State, ∃ t, hostMove .reset s = .next t ∧ t.font = s.font ∧ AfterReset s.font t) ∧
  AfterReset State.reset.font State.reset

/-- O56. 70_reset_and_hazards.md R193. When LOAD is admitted is kept in the model's own field (log 6),
and the report of success is a function of the model (log 9). -/
def Obligations.LoadCopiesTheImage : Prop :=
  ∀ (rom : List Byte) (s : State), s.memWf = true → s.loadAdmitted = true →
    rom.length + 512 < 4096 →
    replyTo (.load rom) s = .loaded ∧ ∃ t, hostMove (.load rom) s = .next t ∧
      (∀ (k : Nat) (h : k < rom.length), t.byteAt (512 + k) = rom[k]) ∧
      OnlyBytes (fun a => 512 ≤ a ∧ a < 512 + rom.length) s t ∧ t.pc = 512 ∧
      SameExcept [.mem, .pc] s t

/-- O57. 70_reset_and_hazards.md R194; that nothing is written is the spec's decision D19. When LOAD
is admitted is kept in the model's own field (log 6), and the report is a function of the model
(log 9). -/
def Obligations.LoadTooLargeChangesNothing : Prop :=
  ∀ (rom : List Byte) (s : State), s.loadAdmitted = true → 4096 ≤ rom.length + 512 →
    replyTo (.load rom) s = .programTooLarge ∧ ∃ t, hostMove (.load rom) s = .next t ∧
      SameExcept [] s t

/-- O58. 70_reset_and_hazards.md R195 (D19); the refusal is the model's choice (log 6), and so is that
it reports nothing (log 9). -/
def Obligations.LoadIsAdmittedOnlyBetweenResetAndTheFirstStep : Prop :=
  ∀ s t : State, step s = .next t →
    (t.loadOpen = true → s.loadOpen = true ∨ s.hostNext .reset) ∧
    (s.aboutToStep → t.loadOpen = false) ∧
    ∀ rom, t.loadOpen = false ∨ t.mode ≠ .run →
      hostMove (.load rom) t = .refused .loadNotAdmitted ∧ replyTo (.load rom) t = .nothing

/-- O59. 60_exceptions.md R180 (D29); the plan of turns is the model's (log 3), and so is the report
as a function (log 9). -/
def Obligations.SnapshotReadsTheFramebuffer : Prop :=
  ∀ s : State, s.hostNext .snapshot → (∃ t, step s = .next t ∧
      SameExcept [.schedule, .environment] s t) ∧
    ∃ g, replyTo .snapshot s = .grid g ∧ ∀ x y, g.pixel x y = s.fb.pixel x y

/-- O60. 40_step_cycle.md R80: any interleaving is legal. How the order of moves stands in the state
is the model's choice (log 3). Nothing rests on the value of Config.freeTurn. -/
def Obligations.TurnsAreThePlannedOnesThenTheFreeOnes : Prop :=
  (∀ (s : State) (u : Turn) (us : List Turn), s.schedule = u :: us →
    step s = takeTurn u s.endTurn ∧ s.endTurn.schedule = us ∧
      s.endTurn.environment = s.environment) ∧
  ∀ (n k : Nat) (s t : State), s.schedule = [] → s.environment = .free k →
    Sys2Proof.core.run n s = .next t →
    t.schedule = [] ∧ t.environment = .free (k + n) ∧
      step t = takeTurn (Config.freeTurn (k + n)) t.endTurn
end

