-- ==== Sys2Proof/Laws/Decode.lean ====
section
/-! SUPPORT. The opcode table is unambiguous, and the fields of the words the encoder builds. -/

namespace Sys2Proof

/-- Two rows that no word can match both: their patterns differ on a bit both masks fix. -/
def OpRow.disjoint (r q : OpRow) : Bool := (r.mask &&& q.mask &&& (r.pattern ^^^ q.pattern)) != 0

/-- The rows are pairwise disjoint (30_encoding.md R62). -/
theorem opTable_disjoint : opTable.Pairwise fun r q => r.disjoint q = true := by decide

/-- Disjoint rows select no word in common. -/
theorem OpRow.not_both {r q : OpRow} (h : r.disjoint q = true) {w : Word}
    (hr : r.selects w = true) : q.selects w = false := by
  by_contra hq
  simp only [OpRow.disjoint, bne_iff_ne, ne_eq] at h
  simp only [OpRow.selects, beq_iff_eq, Bool.not_eq_false] at hr hq
  apply h
  rw [← hr, ← hq]
  ext k hk
  have hz : (0 : Word)[k] = false := BitVec.getElem_zero hk
  rw [hz]
  simp only [BitVec.getElem_and, BitVec.getElem_xor]
  cases w[k] <;> cases r.mask[k] <;> cases q.mask[k] <;> rfl

/-- A row that selects the word is the row the decoder takes. -/
theorem find_of_selects {rs : List OpRow} (hp : rs.Pairwise fun r q => r.disjoint q = true)
    {r : OpRow} (hm : r ∈ rs) {w : Word} (hs : r.selects w = true) :
    rs.find? (fun r => r.selects w) = some r := by
  induction rs with
  | nil => simp at hm
  | cons q rs ih =>
    rw [List.pairwise_cons] at hp
    rcases List.mem_cons.mp hm with rfl | hm'
    · simp [hs]
    · have hq : q.selects w = false := by
        by_contra hne
        have := OpRow.not_both (hp.1 r hm') (w := w) (by simpa using hne)
        simp [hs] at this
      simp only [List.find?_cons, hq]
      exact ih hp.2 hm'

/-- The decoder on a word that a row of the table selects. -/
theorem decode_of_row {r : OpRow} (hm : r ∈ opTable) {w : Word} (hs : r.selects w = true) :
    decode w = .instr (r.build w) := by
  simp only [decode, find_of_selects opTable_disjoint hm hs]

/-- The decoder rejects exactly the words that no row selects. -/
theorem decode_undefined_iff (w : Word) :
    decode w = .undefined w ↔ ∀ r ∈ opTable, r.selects w = false := by
  unfold decode
  cases h : opTable.find? (fun r => r.selects w) with
  | none => simpa using h
  | some r =>
    have hr := List.find?_some h
    have hm := List.mem_of_find?_eq_some h
    simp only [reduceCtorEq, false_iff, not_forall]
    exact ⟨r, hm, by simp_all⟩

/-- A word either decodes to the instruction of a row that selects it, or is undefined. -/
theorem decode_cases (w : Word) :
    (∃ r ∈ opTable, r.selects w = true ∧ decode w = .instr (r.build w)) ∨
    ((∀ r ∈ opTable, r.selects w = false) ∧ decode w = .undefined w) := by
  by_cases h : ∃ r ∈ opTable, r.selects w = true
  · obtain ⟨r, hm, hs⟩ := h
    exact .inl ⟨r, hm, hs, decode_of_row hm hs⟩
  · have : ∀ r ∈ opTable, r.selects w = false := fun r hr => by
      by_contra hne
      exact h ⟨r, hr, by simpa using hne⟩
    exact .inr ⟨this, (decode_undefined_iff w).mpr this⟩

/-! ### The fields of built words -/

section
variable (op x y n : Nibble) (kk : Byte) (nnn : Addr12)

theorem and_op_rest (a m : Nibble) (r q : Addr12) :
    ((a ++ r : BitVec 16) &&& (m ++ q : BitVec 16)) = ((a &&& m) ++ (r &&& q) : BitVec 16) :=
  BitVec.and_append

theorem nibble_and_ones (a : Nibble) : a &&& 0xF = a := by revert a; decide

theorem fieldNnn_encNnn : fieldNnn (encNnn op nnn) = nnn := BitVec.extractLsb'_append_eq_right

theorem fieldX_rest (r : Byte) : fieldX (op ++ (x ++ r : BitVec 12) : BitVec 16) = x :=
  (BitVec.extractLsb'_append_eq_of_add_le (by decide)).trans BitVec.extractLsb'_append_eq_left

theorem fieldKk_encXkk : fieldKk (encXkk op x kk) = kk :=
  (BitVec.extractLsb'_append_eq_of_add_le (by decide)).trans BitVec.extractLsb'_append_eq_right

theorem fieldY_encXyn : fieldY (encXyn op x y n) = y :=
  (BitVec.extractLsb'_append_eq_of_add_le (by decide)).trans
    ((BitVec.extractLsb'_append_eq_of_add_le (by decide)).trans BitVec.extractLsb'_append_eq_left)

theorem fieldN_encXyn : fieldN (encXyn op x y n) = n :=
  (BitVec.extractLsb'_append_eq_of_add_le (by decide)).trans
    ((BitVec.extractLsb'_append_eq_of_add_le (by decide)).trans BitVec.extractLsb'_append_eq_right)

/-- The mask F000 leaves the top digit. -/
theorem and_F000 (r : Addr12) : (op ++ r : BitVec 16) &&& (0xF000 : Word) = (op ++ (0 : Addr12) : BitVec 16) := by
  rw [show (0xF000 : Word) = ((0xF : Nibble) ++ (0 : Addr12) : BitVec 16) from rfl, and_op_rest,
    nibble_and_ones, show r &&& (0 : Addr12) = 0 from BitVec.and_zero]

/-- The mask F00F leaves the top and the bottom digit. -/
theorem encXyn_and_F00F : encXyn op x y n &&& 0xF00F = encXyn op 0 0 n := by
  have h : (y ++ n : BitVec 8) &&& ((0 : Nibble) ++ (0xF : Nibble) : BitVec 8)
      = ((y &&& 0) ++ (n &&& 0xF) : BitVec 8) := BitVec.and_append
  have h2 : ∀ (r q : Byte), (x ++ r : BitVec 12) &&& ((0 : Nibble) ++ q : BitVec 12)
      = ((x &&& 0) ++ (r &&& q) : BitVec 12) := fun _ _ => BitVec.and_append
  rw [encXyn, show (0xF00F : Word) = ((0xF : Nibble) ++ ((0 : Nibble) ++ ((0 : Nibble) ++ (0xF : Nibble)
    : BitVec 8) : BitVec 12) : BitVec 16) from rfl, and_op_rest, h2, h, nibble_and_ones,
    nibble_and_ones, show x &&& (0 : Nibble) = 0 from BitVec.and_zero,
    show y &&& (0 : Nibble) = 0 from BitVec.and_zero]
  rfl

/-- The mask F0FF leaves the top digit and the low byte. -/
theorem encX_and_F0FF : encX op x kk &&& 0xF0FF = encX op 0 kk := by
  have h2 : ∀ (r q : Byte), (x ++ r : BitVec 12) &&& ((0 : Nibble) ++ q : BitVec 12)
      = ((x &&& 0) ++ (r &&& q) : BitVec 12) := fun _ _ => BitVec.and_append
  rw [encX, show (0xF0FF : Word) = ((0xF : Nibble) ++ ((0 : Nibble) ++ (0xFF : Byte) : BitVec 12)
    : BitVec 16) from rfl, and_op_rest, h2, nibble_and_ones,
    show x &&& (0 : Nibble) = 0 from BitVec.and_zero, show kk &&& (0xFF : Byte) = kk from
      BitVec.and_allOnes]
  rfl

/-! ### A built word selects its row, and the row rebuilds the instruction -/

theorem row_nnn (p : Word) (f : Addr12 → Instr) (hp : (op ++ (0 : Addr12) : BitVec 16) = p) :
    (OpRow.nnn p f).selects (encNnn op nnn) = true ∧
    (OpRow.nnn p f).build (encNnn op nnn) = f nnn := by
  refine ⟨?_, congrArg f (fieldNnn_encNnn op nnn)⟩
  simp only [OpRow.selects, OpRow.nnn, beq_iff_eq]
  exact (and_F000 op nnn).trans hp

theorem row_xkk (p : Word) (f : Nibble → Byte → Instr) (hp : (op ++ (0 : Addr12) : BitVec 16) = p) :
    (OpRow.xkk p f).selects (encXkk op x kk) = true ∧
    (OpRow.xkk p f).build (encXkk op x kk) = f x kk := by
  refine ⟨?_, congrArg₂ f (fieldX_rest op x kk) (fieldKk_encXkk op x kk)⟩
  simp only [OpRow.selects, OpRow.xkk, beq_iff_eq]
  exact (and_F000 op _).trans hp

theorem row_xyn (p : Word) (f : Nibble → Nibble → Nibble → Instr)
    (hp : (op ++ (0 : Addr12) : BitVec 16) = p) :
    (OpRow.xyn p f).selects (encXyn op x y n) = true ∧
    (OpRow.xyn p f).build (encXyn op x y n) = f x y n := by
  refine ⟨?_, ?_⟩
  · simp only [OpRow.selects, OpRow.xyn, beq_iff_eq]
    exact (and_F000 op _).trans hp
  · simp only [OpRow.xyn, fieldY_encXyn, fieldN_encXyn]
    rw [encXyn, fieldX_rest]

theorem row_xy (p : Word) (f : Nibble → Nibble → Instr) (hp : encXyn op 0 0 n = p) :
    (OpRow.xy p f).selects (encXyn op x y n) = true ∧
    (OpRow.xy p f).build (encXyn op x y n) = f x y := by
  refine ⟨?_, ?_⟩
  · simp only [OpRow.selects, OpRow.xy, beq_iff_eq]
    exact (encXyn_and_F00F op x y n).trans hp
  · simp only [OpRow.xy, fieldY_encXyn]
    rw [encXyn, fieldX_rest]

theorem row_x (p : Word) (f : Nibble → Instr) (hp : encX op 0 kk = p) :
    (OpRow.x p f).selects (encX op x kk) = true ∧ (OpRow.x p f).build (encX op x kk) = f x := by
  refine ⟨?_, congrArg f (fieldX_rest op x kk)⟩
  simp only [OpRow.selects, OpRow.x, beq_iff_eq]
  exact (encX_and_F0FF op x kk).trans hp

end

end Sys2Proof
end

