-- ==== Sys2Proof/Laws/State.lean ====
section
/-! SUPPORT. What each update of the state does to each field and to each read, by rfl: with these a
proof never unfolds a record update. -/

namespace Sys2Proof.Machine

variable (s : State)

/-! ### writeV -/

@[simp] theorem State.writeV_v (x : Nibble) (b : Byte) : (s.writeV x b).v = s.v.set x.toNat b x.isLt := rfl
@[simp] theorem State.writeV_i (x : Nibble) (b : Byte) : (s.writeV x b).i = s.i := rfl
@[simp] theorem State.writeV_pc (x : Nibble) (b : Byte) : (s.writeV x b).pc = s.pc := rfl
@[simp] theorem State.writeV_sp (x : Nibble) (b : Byte) : (s.writeV x b).sp = s.sp := rfl
@[simp] theorem State.writeV_stack (x : Nibble) (b : Byte) : (s.writeV x b).stack = s.stack := rfl
@[simp] theorem State.writeV_dt (x : Nibble) (b : Byte) : (s.writeV x b).dt = s.dt := rfl
@[simp] theorem State.writeV_st (x : Nibble) (b : Byte) : (s.writeV x b).st = s.st := rfl
@[simp] theorem State.writeV_mem (x : Nibble) (b : Byte) : (s.writeV x b).mem = s.mem := rfl
@[simp] theorem State.writeV_fb (x : Nibble) (b : Byte) : (s.writeV x b).fb = s.fb := rfl
@[simp] theorem State.writeV_key (x : Nibble) (b : Byte) : (s.writeV x b).key = s.key := rfl
@[simp] theorem State.writeV_mode (x : Nibble) (b : Byte) : (s.writeV x b).mode = s.mode := rfl
@[simp] theorem State.writeV_waitx (x : Nibble) (b : Byte) : (s.writeV x b).waitx = s.waitx := rfl
@[simp] theorem State.writeV_cause (x : Nibble) (b : Byte) : (s.writeV x b).cause = s.cause := rfl
@[simp] theorem State.writeV_finfo (x : Nibble) (b : Byte) : (s.writeV x b).finfo = s.finfo := rfl
@[simp] theorem State.writeV_font (x : Nibble) (b : Byte) : (s.writeV x b).font = s.font := rfl
@[simp] theorem State.writeV_loadOpen (x : Nibble) (b : Byte) : (s.writeV x b).loadOpen = s.loadOpen := rfl
@[simp] theorem State.writeV_schedule (x : Nibble) (b : Byte) : (s.writeV x b).schedule = s.schedule := rfl
@[simp] theorem State.writeV_environment (x : Nibble) (b : Byte) : (s.writeV x b).environment = s.environment := rfl
@[simp] theorem State.writeV_draws (x : Nibble) (b : Byte) : (s.writeV x b).draws = s.draws := rfl
@[simp] theorem State.writeV_drawn (x : Nibble) (b : Byte) : (s.writeV x b).drawn = s.drawn := rfl
@[simp] theorem State.writeV_slot (x : Nibble) (b : Byte) (j : Nibble) : (s.writeV x b).slot j = s.slot j := rfl
@[simp] theorem State.writeV_byteAt (x : Nibble) (b : Byte) (q : Nat) : (s.writeV x b).byteAt q = s.byteAt q := rfl
@[simp] theorem State.writeV_readKey (x : Nibble) (b : Byte) (j : Nibble) : (s.writeV x b).readKey j = s.readKey j := rfl
@[simp] theorem State.writeV_memWf (x : Nibble) (b : Byte) : (s.writeV x b).memWf = s.memWf := rfl

/-! ### setI -/

@[simp] theorem State.setI_v (w : Word) : (s.setI w).v = s.v := rfl
@[simp] theorem State.setI_i (w : Word) : (s.setI w).i = w := rfl
@[simp] theorem State.setI_pc (w : Word) : (s.setI w).pc = s.pc := rfl
@[simp] theorem State.setI_sp (w : Word) : (s.setI w).sp = s.sp := rfl
@[simp] theorem State.setI_stack (w : Word) : (s.setI w).stack = s.stack := rfl
@[simp] theorem State.setI_dt (w : Word) : (s.setI w).dt = s.dt := rfl
@[simp] theorem State.setI_st (w : Word) : (s.setI w).st = s.st := rfl
@[simp] theorem State.setI_mem (w : Word) : (s.setI w).mem = s.mem := rfl
@[simp] theorem State.setI_fb (w : Word) : (s.setI w).fb = s.fb := rfl
@[simp] theorem State.setI_key (w : Word) : (s.setI w).key = s.key := rfl
@[simp] theorem State.setI_mode (w : Word) : (s.setI w).mode = s.mode := rfl
@[simp] theorem State.setI_waitx (w : Word) : (s.setI w).waitx = s.waitx := rfl
@[simp] theorem State.setI_cause (w : Word) : (s.setI w).cause = s.cause := rfl
@[simp] theorem State.setI_finfo (w : Word) : (s.setI w).finfo = s.finfo := rfl
@[simp] theorem State.setI_font (w : Word) : (s.setI w).font = s.font := rfl
@[simp] theorem State.setI_loadOpen (w : Word) : (s.setI w).loadOpen = s.loadOpen := rfl
@[simp] theorem State.setI_schedule (w : Word) : (s.setI w).schedule = s.schedule := rfl
@[simp] theorem State.setI_environment (w : Word) : (s.setI w).environment = s.environment := rfl
@[simp] theorem State.setI_draws (w : Word) : (s.setI w).draws = s.draws := rfl
@[simp] theorem State.setI_drawn (w : Word) : (s.setI w).drawn = s.drawn := rfl
@[simp] theorem State.setI_readV (w : Word) (r : Nibble) : (s.setI w).readV r = s.readV r := rfl
@[simp] theorem State.setI_slot (w : Word) (j : Nibble) : (s.setI w).slot j = s.slot j := rfl
@[simp] theorem State.setI_byteAt (w : Word) (q : Nat) : (s.setI w).byteAt q = s.byteAt q := rfl
@[simp] theorem State.setI_readKey (w : Word) (j : Nibble) : (s.setI w).readKey j = s.readKey j := rfl
@[simp] theorem State.setI_memWf (w : Word) : (s.setI w).memWf = s.memWf := rfl

/-! ### setPc -/

@[simp] theorem State.setPc_v (w : Word) : (s.setPc w).v = s.v := rfl
@[simp] theorem State.setPc_i (w : Word) : (s.setPc w).i = s.i := rfl
@[simp] theorem State.setPc_pc (w : Word) : (s.setPc w).pc = w := rfl
@[simp] theorem State.setPc_sp (w : Word) : (s.setPc w).sp = s.sp := rfl
@[simp] theorem State.setPc_stack (w : Word) : (s.setPc w).stack = s.stack := rfl
@[simp] theorem State.setPc_dt (w : Word) : (s.setPc w).dt = s.dt := rfl
@[simp] theorem State.setPc_st (w : Word) : (s.setPc w).st = s.st := rfl
@[simp] theorem State.setPc_mem (w : Word) : (s.setPc w).mem = s.mem := rfl
@[simp] theorem State.setPc_fb (w : Word) : (s.setPc w).fb = s.fb := rfl
@[simp] theorem State.setPc_key (w : Word) : (s.setPc w).key = s.key := rfl
@[simp] theorem State.setPc_mode (w : Word) : (s.setPc w).mode = s.mode := rfl
@[simp] theorem State.setPc_waitx (w : Word) : (s.setPc w).waitx = s.waitx := rfl
@[simp] theorem State.setPc_cause (w : Word) : (s.setPc w).cause = s.cause := rfl
@[simp] theorem State.setPc_finfo (w : Word) : (s.setPc w).finfo = s.finfo := rfl
@[simp] theorem State.setPc_font (w : Word) : (s.setPc w).font = s.font := rfl
@[simp] theorem State.setPc_loadOpen (w : Word) : (s.setPc w).loadOpen = s.loadOpen := rfl
@[simp] theorem State.setPc_schedule (w : Word) : (s.setPc w).schedule = s.schedule := rfl
@[simp] theorem State.setPc_environment (w : Word) : (s.setPc w).environment = s.environment := rfl
@[simp] theorem State.setPc_draws (w : Word) : (s.setPc w).draws = s.draws := rfl
@[simp] theorem State.setPc_drawn (w : Word) : (s.setPc w).drawn = s.drawn := rfl
@[simp] theorem State.setPc_readV (w : Word) (r : Nibble) : (s.setPc w).readV r = s.readV r := rfl
@[simp] theorem State.setPc_slot (w : Word) (j : Nibble) : (s.setPc w).slot j = s.slot j := rfl
@[simp] theorem State.setPc_byteAt (w : Word) (q : Nat) : (s.setPc w).byteAt q = s.byteAt q := rfl
@[simp] theorem State.setPc_readKey (w : Word) (j : Nibble) : (s.setPc w).readKey j = s.readKey j := rfl
@[simp] theorem State.setPc_memWf (w : Word) : (s.setPc w).memWf = s.memWf := rfl

/-! ### advancePc -/

@[simp] theorem State.advancePc_v : (s.advancePc).v = s.v := rfl
@[simp] theorem State.advancePc_i : (s.advancePc).i = s.i := rfl
@[simp] theorem State.advancePc_pc : (s.advancePc).pc = s.pc + 2 := rfl
@[simp] theorem State.advancePc_sp : (s.advancePc).sp = s.sp := rfl
@[simp] theorem State.advancePc_stack : (s.advancePc).stack = s.stack := rfl
@[simp] theorem State.advancePc_dt : (s.advancePc).dt = s.dt := rfl
@[simp] theorem State.advancePc_st : (s.advancePc).st = s.st := rfl
@[simp] theorem State.advancePc_mem : (s.advancePc).mem = s.mem := rfl
@[simp] theorem State.advancePc_fb : (s.advancePc).fb = s.fb := rfl
@[simp] theorem State.advancePc_key : (s.advancePc).key = s.key := rfl
@[simp] theorem State.advancePc_mode : (s.advancePc).mode = s.mode := rfl
@[simp] theorem State.advancePc_waitx : (s.advancePc).waitx = s.waitx := rfl
@[simp] theorem State.advancePc_cause : (s.advancePc).cause = s.cause := rfl
@[simp] theorem State.advancePc_finfo : (s.advancePc).finfo = s.finfo := rfl
@[simp] theorem State.advancePc_font : (s.advancePc).font = s.font := rfl
@[simp] theorem State.advancePc_loadOpen : (s.advancePc).loadOpen = s.loadOpen := rfl
@[simp] theorem State.advancePc_schedule : (s.advancePc).schedule = s.schedule := rfl
@[simp] theorem State.advancePc_environment : (s.advancePc).environment = s.environment := rfl
@[simp] theorem State.advancePc_draws : (s.advancePc).draws = s.draws := rfl
@[simp] theorem State.advancePc_drawn : (s.advancePc).drawn = s.drawn := rfl
@[simp] theorem State.advancePc_readV (r : Nibble) : (s.advancePc).readV r = s.readV r := rfl
@[simp] theorem State.advancePc_slot (j : Nibble) : (s.advancePc).slot j = s.slot j := rfl
@[simp] theorem State.advancePc_byteAt (q : Nat) : (s.advancePc).byteAt q = s.byteAt q := rfl
@[simp] theorem State.advancePc_readKey (j : Nibble) : (s.advancePc).readKey j = s.readKey j := rfl
@[simp] theorem State.advancePc_memWf : (s.advancePc).memWf = s.memWf := rfl

/-! ### setMode -/

@[simp] theorem State.setMode_v (m : Mode) : (s.setMode m).v = s.v := rfl
@[simp] theorem State.setMode_i (m : Mode) : (s.setMode m).i = s.i := rfl
@[simp] theorem State.setMode_pc (m : Mode) : (s.setMode m).pc = s.pc := rfl
@[simp] theorem State.setMode_sp (m : Mode) : (s.setMode m).sp = s.sp := rfl
@[simp] theorem State.setMode_stack (m : Mode) : (s.setMode m).stack = s.stack := rfl
@[simp] theorem State.setMode_dt (m : Mode) : (s.setMode m).dt = s.dt := rfl
@[simp] theorem State.setMode_st (m : Mode) : (s.setMode m).st = s.st := rfl
@[simp] theorem State.setMode_mem (m : Mode) : (s.setMode m).mem = s.mem := rfl
@[simp] theorem State.setMode_fb (m : Mode) : (s.setMode m).fb = s.fb := rfl
@[simp] theorem State.setMode_key (m : Mode) : (s.setMode m).key = s.key := rfl
@[simp] theorem State.setMode_mode (m : Mode) : (s.setMode m).mode = m := rfl
@[simp] theorem State.setMode_waitx (m : Mode) : (s.setMode m).waitx = s.waitx := rfl
@[simp] theorem State.setMode_cause (m : Mode) : (s.setMode m).cause = s.cause := rfl
@[simp] theorem State.setMode_finfo (m : Mode) : (s.setMode m).finfo = s.finfo := rfl
@[simp] theorem State.setMode_font (m : Mode) : (s.setMode m).font = s.font := rfl
@[simp] theorem State.setMode_loadOpen (m : Mode) : (s.setMode m).loadOpen = s.loadOpen := rfl
@[simp] theorem State.setMode_schedule (m : Mode) : (s.setMode m).schedule = s.schedule := rfl
@[simp] theorem State.setMode_environment (m : Mode) : (s.setMode m).environment = s.environment := rfl
@[simp] theorem State.setMode_draws (m : Mode) : (s.setMode m).draws = s.draws := rfl
@[simp] theorem State.setMode_drawn (m : Mode) : (s.setMode m).drawn = s.drawn := rfl
@[simp] theorem State.setMode_readV (m : Mode) (r : Nibble) : (s.setMode m).readV r = s.readV r := rfl
@[simp] theorem State.setMode_slot (m : Mode) (j : Nibble) : (s.setMode m).slot j = s.slot j := rfl
@[simp] theorem State.setMode_byteAt (m : Mode) (q : Nat) : (s.setMode m).byteAt q = s.byteAt q := rfl
@[simp] theorem State.setMode_readKey (m : Mode) (j : Nibble) : (s.setMode m).readKey j = s.readKey j := rfl
@[simp] theorem State.setMode_memWf (m : Mode) : (s.setMode m).memWf = s.memWf := rfl

/-! ### endTurn -/

@[simp] theorem State.endTurn_v : (s.endTurn).v = s.v := rfl
@[simp] theorem State.endTurn_i : (s.endTurn).i = s.i := rfl
@[simp] theorem State.endTurn_pc : (s.endTurn).pc = s.pc := rfl
@[simp] theorem State.endTurn_sp : (s.endTurn).sp = s.sp := rfl
@[simp] theorem State.endTurn_stack : (s.endTurn).stack = s.stack := rfl
@[simp] theorem State.endTurn_dt : (s.endTurn).dt = s.dt := rfl
@[simp] theorem State.endTurn_st : (s.endTurn).st = s.st := rfl
@[simp] theorem State.endTurn_mem : (s.endTurn).mem = s.mem := rfl
@[simp] theorem State.endTurn_fb : (s.endTurn).fb = s.fb := rfl
@[simp] theorem State.endTurn_key : (s.endTurn).key = s.key := rfl
@[simp] theorem State.endTurn_mode : (s.endTurn).mode = s.mode := rfl
@[simp] theorem State.endTurn_waitx : (s.endTurn).waitx = s.waitx := rfl
@[simp] theorem State.endTurn_cause : (s.endTurn).cause = s.cause := rfl
@[simp] theorem State.endTurn_finfo : (s.endTurn).finfo = s.finfo := rfl
@[simp] theorem State.endTurn_font : (s.endTurn).font = s.font := rfl
@[simp] theorem State.endTurn_loadOpen : (s.endTurn).loadOpen = s.loadOpen := rfl
@[simp] theorem State.endTurn_schedule : (s.endTurn).schedule = s.schedule.tail := rfl
@[simp] theorem State.endTurn_draws : (s.endTurn).draws = s.draws := rfl
@[simp] theorem State.endTurn_drawn : (s.endTurn).drawn = s.drawn := rfl
@[simp] theorem State.endTurn_readV (r : Nibble) : (s.endTurn).readV r = s.readV r := rfl
@[simp] theorem State.endTurn_slot (j : Nibble) : (s.endTurn).slot j = s.slot j := rfl
@[simp] theorem State.endTurn_byteAt (q : Nat) : (s.endTurn).byteAt q = s.byteAt q := rfl
@[simp] theorem State.endTurn_readKey (j : Nibble) : (s.endTurn).readKey j = s.readKey j := rfl
@[simp] theorem State.endTurn_memWf : (s.endTurn).memWf = s.memWf := rfl

/-! ### closeLoad -/

@[simp] theorem State.closeLoad_v : (s.closeLoad).v = s.v := rfl
@[simp] theorem State.closeLoad_i : (s.closeLoad).i = s.i := rfl
@[simp] theorem State.closeLoad_pc : (s.closeLoad).pc = s.pc := rfl
@[simp] theorem State.closeLoad_sp : (s.closeLoad).sp = s.sp := rfl
@[simp] theorem State.closeLoad_stack : (s.closeLoad).stack = s.stack := rfl
@[simp] theorem State.closeLoad_dt : (s.closeLoad).dt = s.dt := rfl
@[simp] theorem State.closeLoad_st : (s.closeLoad).st = s.st := rfl
@[simp] theorem State.closeLoad_mem : (s.closeLoad).mem = s.mem := rfl
@[simp] theorem State.closeLoad_fb : (s.closeLoad).fb = s.fb := rfl
@[simp] theorem State.closeLoad_key : (s.closeLoad).key = s.key := rfl
@[simp] theorem State.closeLoad_mode : (s.closeLoad).mode = s.mode := rfl
@[simp] theorem State.closeLoad_waitx : (s.closeLoad).waitx = s.waitx := rfl
@[simp] theorem State.closeLoad_cause : (s.closeLoad).cause = s.cause := rfl
@[simp] theorem State.closeLoad_finfo : (s.closeLoad).finfo = s.finfo := rfl
@[simp] theorem State.closeLoad_font : (s.closeLoad).font = s.font := rfl
@[simp] theorem State.closeLoad_loadOpen : (s.closeLoad).loadOpen = false := rfl
@[simp] theorem State.closeLoad_schedule : (s.closeLoad).schedule = s.schedule := rfl
@[simp] theorem State.closeLoad_environment : (s.closeLoad).environment = s.environment := rfl
@[simp] theorem State.closeLoad_draws : (s.closeLoad).draws = s.draws := rfl
@[simp] theorem State.closeLoad_drawn : (s.closeLoad).drawn = s.drawn := rfl
@[simp] theorem State.closeLoad_readV (r : Nibble) : (s.closeLoad).readV r = s.readV r := rfl
@[simp] theorem State.closeLoad_slot (j : Nibble) : (s.closeLoad).slot j = s.slot j := rfl
@[simp] theorem State.closeLoad_byteAt (q : Nat) : (s.closeLoad).byteAt q = s.byteAt q := rfl
@[simp] theorem State.closeLoad_readKey (j : Nibble) : (s.closeLoad).readKey j = s.readKey j := rfl
@[simp] theorem State.closeLoad_memWf : (s.closeLoad).memWf = s.memWf := rfl

/-! ### resetEvent -/

@[simp] theorem State.resetEvent_v : (s.resetEvent).v = State.reset.v := rfl
@[simp] theorem State.resetEvent_i : (s.resetEvent).i = State.reset.i := rfl
@[simp] theorem State.resetEvent_pc : (s.resetEvent).pc = State.reset.pc := rfl
@[simp] theorem State.resetEvent_sp : (s.resetEvent).sp = State.reset.sp := rfl
@[simp] theorem State.resetEvent_stack : (s.resetEvent).stack = State.reset.stack := rfl
@[simp] theorem State.resetEvent_dt : (s.resetEvent).dt = State.reset.dt := rfl
@[simp] theorem State.resetEvent_st : (s.resetEvent).st = State.reset.st := rfl
@[simp] theorem State.resetEvent_mem : (s.resetEvent).mem = State.reset.mem := rfl
@[simp] theorem State.resetEvent_fb : (s.resetEvent).fb = State.reset.fb := rfl
@[simp] theorem State.resetEvent_key : (s.resetEvent).key = State.reset.key := rfl
@[simp] theorem State.resetEvent_mode : (s.resetEvent).mode = State.reset.mode := rfl
@[simp] theorem State.resetEvent_waitx : (s.resetEvent).waitx = State.reset.waitx := rfl
@[simp] theorem State.resetEvent_cause : (s.resetEvent).cause = State.reset.cause := rfl
@[simp] theorem State.resetEvent_finfo : (s.resetEvent).finfo = State.reset.finfo := rfl
@[simp] theorem State.resetEvent_font : (s.resetEvent).font = s.font := rfl
@[simp] theorem State.resetEvent_loadOpen : (s.resetEvent).loadOpen = State.reset.loadOpen := rfl
@[simp] theorem State.resetEvent_schedule : (s.resetEvent).schedule = s.schedule := rfl
@[simp] theorem State.resetEvent_environment : (s.resetEvent).environment = s.environment := rfl
@[simp] theorem State.resetEvent_draws : (s.resetEvent).draws = s.draws := rfl
@[simp] theorem State.resetEvent_drawn : (s.resetEvent).drawn = s.drawn := rfl

/-! ### setSp -/

@[simp] theorem State.setSp_v (b : Byte) : (s.setSp b).v = s.v := rfl
@[simp] theorem State.setSp_i (b : Byte) : (s.setSp b).i = s.i := rfl
@[simp] theorem State.setSp_pc (b : Byte) : (s.setSp b).pc = s.pc := rfl
@[simp] theorem State.setSp_sp (b : Byte) : (s.setSp b).sp = b := rfl
@[simp] theorem State.setSp_stack (b : Byte) : (s.setSp b).stack = s.stack := rfl
@[simp] theorem State.setSp_dt (b : Byte) : (s.setSp b).dt = s.dt := rfl
@[simp] theorem State.setSp_st (b : Byte) : (s.setSp b).st = s.st := rfl
@[simp] theorem State.setSp_mem (b : Byte) : (s.setSp b).mem = s.mem := rfl
@[simp] theorem State.setSp_fb (b : Byte) : (s.setSp b).fb = s.fb := rfl
@[simp] theorem State.setSp_key (b : Byte) : (s.setSp b).key = s.key := rfl
@[simp] theorem State.setSp_mode (b : Byte) : (s.setSp b).mode = s.mode := rfl
@[simp] theorem State.setSp_waitx (b : Byte) : (s.setSp b).waitx = s.waitx := rfl
@[simp] theorem State.setSp_cause (b : Byte) : (s.setSp b).cause = s.cause := rfl
@[simp] theorem State.setSp_finfo (b : Byte) : (s.setSp b).finfo = s.finfo := rfl
@[simp] theorem State.setSp_font (b : Byte) : (s.setSp b).font = s.font := rfl
@[simp] theorem State.setSp_loadOpen (b : Byte) : (s.setSp b).loadOpen = s.loadOpen := rfl
@[simp] theorem State.setSp_schedule (b : Byte) : (s.setSp b).schedule = s.schedule := rfl
@[simp] theorem State.setSp_environment (b : Byte) : (s.setSp b).environment = s.environment := rfl
@[simp] theorem State.setSp_draws (b : Byte) : (s.setSp b).draws = s.draws := rfl
@[simp] theorem State.setSp_drawn (b : Byte) : (s.setSp b).drawn = s.drawn := rfl
@[simp] theorem State.setSp_readV (b : Byte) (r : Nibble) : (s.setSp b).readV r = s.readV r := rfl
@[simp] theorem State.setSp_slot (b : Byte) (j : Nibble) : (s.setSp b).slot j = s.slot j := rfl
@[simp] theorem State.setSp_byteAt (b : Byte) (q : Nat) : (s.setSp b).byteAt q = s.byteAt q := rfl
@[simp] theorem State.setSp_readKey (b : Byte) (j : Nibble) : (s.setSp b).readKey j = s.readKey j := rfl
@[simp] theorem State.setSp_memWf (b : Byte) : (s.setSp b).memWf = s.memWf := rfl

/-! ### setDt -/

@[simp] theorem State.setDt_v (b : Byte) : (s.setDt b).v = s.v := rfl
@[simp] theorem State.setDt_i (b : Byte) : (s.setDt b).i = s.i := rfl
@[simp] theorem State.setDt_pc (b : Byte) : (s.setDt b).pc = s.pc := rfl
@[simp] theorem State.setDt_sp (b : Byte) : (s.setDt b).sp = s.sp := rfl
@[simp] theorem State.setDt_stack (b : Byte) : (s.setDt b).stack = s.stack := rfl
@[simp] theorem State.setDt_dt (b : Byte) : (s.setDt b).dt = b := rfl
@[simp] theorem State.setDt_st (b : Byte) : (s.setDt b).st = s.st := rfl
@[simp] theorem State.setDt_mem (b : Byte) : (s.setDt b).mem = s.mem := rfl
@[simp] theorem State.setDt_fb (b : Byte) : (s.setDt b).fb = s.fb := rfl
@[simp] theorem State.setDt_key (b : Byte) : (s.setDt b).key = s.key := rfl
@[simp] theorem State.setDt_mode (b : Byte) : (s.setDt b).mode = s.mode := rfl
@[simp] theorem State.setDt_waitx (b : Byte) : (s.setDt b).waitx = s.waitx := rfl
@[simp] theorem State.setDt_cause (b : Byte) : (s.setDt b).cause = s.cause := rfl
@[simp] theorem State.setDt_finfo (b : Byte) : (s.setDt b).finfo = s.finfo := rfl
@[simp] theorem State.setDt_font (b : Byte) : (s.setDt b).font = s.font := rfl
@[simp] theorem State.setDt_loadOpen (b : Byte) : (s.setDt b).loadOpen = s.loadOpen := rfl
@[simp] theorem State.setDt_schedule (b : Byte) : (s.setDt b).schedule = s.schedule := rfl
@[simp] theorem State.setDt_environment (b : Byte) : (s.setDt b).environment = s.environment := rfl
@[simp] theorem State.setDt_draws (b : Byte) : (s.setDt b).draws = s.draws := rfl
@[simp] theorem State.setDt_drawn (b : Byte) : (s.setDt b).drawn = s.drawn := rfl
@[simp] theorem State.setDt_readV (b : Byte) (r : Nibble) : (s.setDt b).readV r = s.readV r := rfl
@[simp] theorem State.setDt_slot (b : Byte) (j : Nibble) : (s.setDt b).slot j = s.slot j := rfl
@[simp] theorem State.setDt_byteAt (b : Byte) (q : Nat) : (s.setDt b).byteAt q = s.byteAt q := rfl
@[simp] theorem State.setDt_readKey (b : Byte) (j : Nibble) : (s.setDt b).readKey j = s.readKey j := rfl
@[simp] theorem State.setDt_memWf (b : Byte) : (s.setDt b).memWf = s.memWf := rfl

/-! ### setSt -/

@[simp] theorem State.setSt_v (b : Byte) : (s.setSt b).v = s.v := rfl
@[simp] theorem State.setSt_i (b : Byte) : (s.setSt b).i = s.i := rfl
@[simp] theorem State.setSt_pc (b : Byte) : (s.setSt b).pc = s.pc := rfl
@[simp] theorem State.setSt_sp (b : Byte) : (s.setSt b).sp = s.sp := rfl
@[simp] theorem State.setSt_stack (b : Byte) : (s.setSt b).stack = s.stack := rfl
@[simp] theorem State.setSt_dt (b : Byte) : (s.setSt b).dt = s.dt := rfl
@[simp] theorem State.setSt_st (b : Byte) : (s.setSt b).st = b := rfl
@[simp] theorem State.setSt_mem (b : Byte) : (s.setSt b).mem = s.mem := rfl
@[simp] theorem State.setSt_fb (b : Byte) : (s.setSt b).fb = s.fb := rfl
@[simp] theorem State.setSt_key (b : Byte) : (s.setSt b).key = s.key := rfl
@[simp] theorem State.setSt_mode (b : Byte) : (s.setSt b).mode = s.mode := rfl
@[simp] theorem State.setSt_waitx (b : Byte) : (s.setSt b).waitx = s.waitx := rfl
@[simp] theorem State.setSt_cause (b : Byte) : (s.setSt b).cause = s.cause := rfl
@[simp] theorem State.setSt_finfo (b : Byte) : (s.setSt b).finfo = s.finfo := rfl
@[simp] theorem State.setSt_font (b : Byte) : (s.setSt b).font = s.font := rfl
@[simp] theorem State.setSt_loadOpen (b : Byte) : (s.setSt b).loadOpen = s.loadOpen := rfl
@[simp] theorem State.setSt_schedule (b : Byte) : (s.setSt b).schedule = s.schedule := rfl
@[simp] theorem State.setSt_environment (b : Byte) : (s.setSt b).environment = s.environment := rfl
@[simp] theorem State.setSt_draws (b : Byte) : (s.setSt b).draws = s.draws := rfl
@[simp] theorem State.setSt_drawn (b : Byte) : (s.setSt b).drawn = s.drawn := rfl
@[simp] theorem State.setSt_readV (b : Byte) (r : Nibble) : (s.setSt b).readV r = s.readV r := rfl
@[simp] theorem State.setSt_slot (b : Byte) (j : Nibble) : (s.setSt b).slot j = s.slot j := rfl
@[simp] theorem State.setSt_byteAt (b : Byte) (q : Nat) : (s.setSt b).byteAt q = s.byteAt q := rfl
@[simp] theorem State.setSt_readKey (b : Byte) (j : Nibble) : (s.setSt b).readKey j = s.readKey j := rfl
@[simp] theorem State.setSt_memWf (b : Byte) : (s.setSt b).memWf = s.memWf := rfl

/-! ### setFb -/

@[simp] theorem State.setFb_v (f : Screen) : (s.setFb f).v = s.v := rfl
@[simp] theorem State.setFb_i (f : Screen) : (s.setFb f).i = s.i := rfl
@[simp] theorem State.setFb_pc (f : Screen) : (s.setFb f).pc = s.pc := rfl
@[simp] theorem State.setFb_sp (f : Screen) : (s.setFb f).sp = s.sp := rfl
@[simp] theorem State.setFb_stack (f : Screen) : (s.setFb f).stack = s.stack := rfl
@[simp] theorem State.setFb_dt (f : Screen) : (s.setFb f).dt = s.dt := rfl
@[simp] theorem State.setFb_st (f : Screen) : (s.setFb f).st = s.st := rfl
@[simp] theorem State.setFb_mem (f : Screen) : (s.setFb f).mem = s.mem := rfl
@[simp] theorem State.setFb_fb (f : Screen) : (s.setFb f).fb = f := rfl
@[simp] theorem State.setFb_key (f : Screen) : (s.setFb f).key = s.key := rfl
@[simp] theorem State.setFb_mode (f : Screen) : (s.setFb f).mode = s.mode := rfl
@[simp] theorem State.setFb_waitx (f : Screen) : (s.setFb f).waitx = s.waitx := rfl
@[simp] theorem State.setFb_cause (f : Screen) : (s.setFb f).cause = s.cause := rfl
@[simp] theorem State.setFb_finfo (f : Screen) : (s.setFb f).finfo = s.finfo := rfl
@[simp] theorem State.setFb_font (f : Screen) : (s.setFb f).font = s.font := rfl
@[simp] theorem State.setFb_loadOpen (f : Screen) : (s.setFb f).loadOpen = s.loadOpen := rfl
@[simp] theorem State.setFb_schedule (f : Screen) : (s.setFb f).schedule = s.schedule := rfl
@[simp] theorem State.setFb_environment (f : Screen) : (s.setFb f).environment = s.environment := rfl
@[simp] theorem State.setFb_draws (f : Screen) : (s.setFb f).draws = s.draws := rfl
@[simp] theorem State.setFb_drawn (f : Screen) : (s.setFb f).drawn = s.drawn := rfl
@[simp] theorem State.setFb_readV (f : Screen) (r : Nibble) : (s.setFb f).readV r = s.readV r := rfl
@[simp] theorem State.setFb_slot (f : Screen) (j : Nibble) : (s.setFb f).slot j = s.slot j := rfl
@[simp] theorem State.setFb_byteAt (f : Screen) (q : Nat) : (s.setFb f).byteAt q = s.byteAt q := rfl
@[simp] theorem State.setFb_readKey (f : Screen) (j : Nibble) : (s.setFb f).readKey j = s.readKey j := rfl
@[simp] theorem State.setFb_memWf (f : Screen) : (s.setFb f).memWf = s.memWf := rfl

/-! ### setSlot -/

@[simp] theorem State.setSlot_v (k : Nibble) (w : Word) : (s.setSlot k w).v = s.v := rfl
@[simp] theorem State.setSlot_i (k : Nibble) (w : Word) : (s.setSlot k w).i = s.i := rfl
@[simp] theorem State.setSlot_pc (k : Nibble) (w : Word) : (s.setSlot k w).pc = s.pc := rfl
@[simp] theorem State.setSlot_sp (k : Nibble) (w : Word) : (s.setSlot k w).sp = s.sp := rfl
@[simp] theorem State.setSlot_stack (k : Nibble) (w : Word) : (s.setSlot k w).stack = s.stack.set k.toNat w k.isLt := rfl
@[simp] theorem State.setSlot_dt (k : Nibble) (w : Word) : (s.setSlot k w).dt = s.dt := rfl
@[simp] theorem State.setSlot_st (k : Nibble) (w : Word) : (s.setSlot k w).st = s.st := rfl
@[simp] theorem State.setSlot_mem (k : Nibble) (w : Word) : (s.setSlot k w).mem = s.mem := rfl
@[simp] theorem State.setSlot_fb (k : Nibble) (w : Word) : (s.setSlot k w).fb = s.fb := rfl
@[simp] theorem State.setSlot_key (k : Nibble) (w : Word) : (s.setSlot k w).key = s.key := rfl
@[simp] theorem State.setSlot_mode (k : Nibble) (w : Word) : (s.setSlot k w).mode = s.mode := rfl
@[simp] theorem State.setSlot_waitx (k : Nibble) (w : Word) : (s.setSlot k w).waitx = s.waitx := rfl
@[simp] theorem State.setSlot_cause (k : Nibble) (w : Word) : (s.setSlot k w).cause = s.cause := rfl
@[simp] theorem State.setSlot_finfo (k : Nibble) (w : Word) : (s.setSlot k w).finfo = s.finfo := rfl
@[simp] theorem State.setSlot_font (k : Nibble) (w : Word) : (s.setSlot k w).font = s.font := rfl
@[simp] theorem State.setSlot_loadOpen (k : Nibble) (w : Word) : (s.setSlot k w).loadOpen = s.loadOpen := rfl
@[simp] theorem State.setSlot_schedule (k : Nibble) (w : Word) : (s.setSlot k w).schedule = s.schedule := rfl
@[simp] theorem State.setSlot_environment (k : Nibble) (w : Word) : (s.setSlot k w).environment = s.environment := rfl
@[simp] theorem State.setSlot_draws (k : Nibble) (w : Word) : (s.setSlot k w).draws = s.draws := rfl
@[simp] theorem State.setSlot_drawn (k : Nibble) (w : Word) : (s.setSlot k w).drawn = s.drawn := rfl
@[simp] theorem State.setSlot_readV (k : Nibble) (w : Word) (r : Nibble) : (s.setSlot k w).readV r = s.readV r := rfl
@[simp] theorem State.setSlot_byteAt (k : Nibble) (w : Word) (q : Nat) : (s.setSlot k w).byteAt q = s.byteAt q := rfl
@[simp] theorem State.setSlot_readKey (k : Nibble) (w : Word) (j : Nibble) : (s.setSlot k w).readKey j = s.readKey j := rfl
@[simp] theorem State.setSlot_memWf (k : Nibble) (w : Word) : (s.setSlot k w).memWf = s.memWf := rfl

/-! ### writeKey -/

@[simp] theorem State.writeKey_v (k : Nibble) (b : Bool) : (s.writeKey k b).v = s.v := rfl
@[simp] theorem State.writeKey_i (k : Nibble) (b : Bool) : (s.writeKey k b).i = s.i := rfl
@[simp] theorem State.writeKey_pc (k : Nibble) (b : Bool) : (s.writeKey k b).pc = s.pc := rfl
@[simp] theorem State.writeKey_sp (k : Nibble) (b : Bool) : (s.writeKey k b).sp = s.sp := rfl
@[simp] theorem State.writeKey_stack (k : Nibble) (b : Bool) : (s.writeKey k b).stack = s.stack := rfl
@[simp] theorem State.writeKey_dt (k : Nibble) (b : Bool) : (s.writeKey k b).dt = s.dt := rfl
@[simp] theorem State.writeKey_st (k : Nibble) (b : Bool) : (s.writeKey k b).st = s.st := rfl
@[simp] theorem State.writeKey_mem (k : Nibble) (b : Bool) : (s.writeKey k b).mem = s.mem := rfl
@[simp] theorem State.writeKey_fb (k : Nibble) (b : Bool) : (s.writeKey k b).fb = s.fb := rfl
@[simp] theorem State.writeKey_key (k : Nibble) (b : Bool) : (s.writeKey k b).key = s.key.set k.toNat b k.isLt := rfl
@[simp] theorem State.writeKey_mode (k : Nibble) (b : Bool) : (s.writeKey k b).mode = s.mode := rfl
@[simp] theorem State.writeKey_waitx (k : Nibble) (b : Bool) : (s.writeKey k b).waitx = s.waitx := rfl
@[simp] theorem State.writeKey_cause (k : Nibble) (b : Bool) : (s.writeKey k b).cause = s.cause := rfl
@[simp] theorem State.writeKey_finfo (k : Nibble) (b : Bool) : (s.writeKey k b).finfo = s.finfo := rfl
@[simp] theorem State.writeKey_font (k : Nibble) (b : Bool) : (s.writeKey k b).font = s.font := rfl
@[simp] theorem State.writeKey_loadOpen (k : Nibble) (b : Bool) : (s.writeKey k b).loadOpen = s.loadOpen := rfl
@[simp] theorem State.writeKey_schedule (k : Nibble) (b : Bool) : (s.writeKey k b).schedule = s.schedule := rfl
@[simp] theorem State.writeKey_environment (k : Nibble) (b : Bool) : (s.writeKey k b).environment = s.environment := rfl
@[simp] theorem State.writeKey_draws (k : Nibble) (b : Bool) : (s.writeKey k b).draws = s.draws := rfl
@[simp] theorem State.writeKey_drawn (k : Nibble) (b : Bool) : (s.writeKey k b).drawn = s.drawn := rfl
@[simp] theorem State.writeKey_readV (k : Nibble) (b : Bool) (r : Nibble) : (s.writeKey k b).readV r = s.readV r := rfl
@[simp] theorem State.writeKey_slot (k : Nibble) (b : Bool) (j : Nibble) : (s.writeKey k b).slot j = s.slot j := rfl
@[simp] theorem State.writeKey_byteAt (k : Nibble) (b : Bool) (q : Nat) : (s.writeKey k b).byteAt q = s.byteAt q := rfl
@[simp] theorem State.writeKey_memWf (k : Nibble) (b : Bool) : (s.writeKey k b).memWf = s.memWf := rfl

/-! ### raise -/

@[simp] theorem State.raise_v (c : Cause) (n : Nat) : (s.raise c n).v = s.v := rfl
@[simp] theorem State.raise_i (c : Cause) (n : Nat) : (s.raise c n).i = s.i := rfl
@[simp] theorem State.raise_pc (c : Cause) (n : Nat) : (s.raise c n).pc = s.pc := rfl
@[simp] theorem State.raise_sp (c : Cause) (n : Nat) : (s.raise c n).sp = s.sp := rfl
@[simp] theorem State.raise_stack (c : Cause) (n : Nat) : (s.raise c n).stack = s.stack := rfl
@[simp] theorem State.raise_dt (c : Cause) (n : Nat) : (s.raise c n).dt = s.dt := rfl
@[simp] theorem State.raise_st (c : Cause) (n : Nat) : (s.raise c n).st = s.st := rfl
@[simp] theorem State.raise_mem (c : Cause) (n : Nat) : (s.raise c n).mem = s.mem := rfl
@[simp] theorem State.raise_fb (c : Cause) (n : Nat) : (s.raise c n).fb = s.fb := rfl
@[simp] theorem State.raise_key (c : Cause) (n : Nat) : (s.raise c n).key = s.key := rfl
@[simp] theorem State.raise_mode (c : Cause) (n : Nat) : (s.raise c n).mode = .fault := rfl
@[simp] theorem State.raise_waitx (c : Cause) (n : Nat) : (s.raise c n).waitx = s.waitx := rfl
@[simp] theorem State.raise_cause (c : Cause) (n : Nat) : (s.raise c n).cause = c := rfl
@[simp] theorem State.raise_finfo (c : Cause) (n : Nat) : (s.raise c n).finfo = BitVec.ofNat 17 n := rfl
@[simp] theorem State.raise_font (c : Cause) (n : Nat) : (s.raise c n).font = s.font := rfl
@[simp] theorem State.raise_loadOpen (c : Cause) (n : Nat) : (s.raise c n).loadOpen = s.loadOpen := rfl
@[simp] theorem State.raise_schedule (c : Cause) (n : Nat) : (s.raise c n).schedule = s.schedule := rfl
@[simp] theorem State.raise_environment (c : Cause) (n : Nat) : (s.raise c n).environment = s.environment := rfl
@[simp] theorem State.raise_draws (c : Cause) (n : Nat) : (s.raise c n).draws = s.draws := rfl
@[simp] theorem State.raise_drawn (c : Cause) (n : Nat) : (s.raise c n).drawn = s.drawn := rfl
@[simp] theorem State.raise_readV (c : Cause) (n : Nat) (r : Nibble) : (s.raise c n).readV r = s.readV r := rfl
@[simp] theorem State.raise_slot (c : Cause) (n : Nat) (j : Nibble) : (s.raise c n).slot j = s.slot j := rfl
@[simp] theorem State.raise_byteAt (c : Cause) (n : Nat) (q : Nat) : (s.raise c n).byteAt q = s.byteAt q := rfl
@[simp] theorem State.raise_readKey (c : Cause) (n : Nat) (j : Nibble) : (s.raise c n).readKey j = s.readKey j := rfl
@[simp] theorem State.raise_memWf (c : Cause) (n : Nat) : (s.raise c n).memWf = s.memWf := rfl

/-! ### awaitKey -/

@[simp] theorem State.awaitKey_v (x : Nibble) : (s.awaitKey x).v = s.v := rfl
@[simp] theorem State.awaitKey_i (x : Nibble) : (s.awaitKey x).i = s.i := rfl
@[simp] theorem State.awaitKey_pc (x : Nibble) : (s.awaitKey x).pc = s.pc := rfl
@[simp] theorem State.awaitKey_sp (x : Nibble) : (s.awaitKey x).sp = s.sp := rfl
@[simp] theorem State.awaitKey_stack (x : Nibble) : (s.awaitKey x).stack = s.stack := rfl
@[simp] theorem State.awaitKey_dt (x : Nibble) : (s.awaitKey x).dt = s.dt := rfl
@[simp] theorem State.awaitKey_st (x : Nibble) : (s.awaitKey x).st = s.st := rfl
@[simp] theorem State.awaitKey_mem (x : Nibble) : (s.awaitKey x).mem = s.mem := rfl
@[simp] theorem State.awaitKey_fb (x : Nibble) : (s.awaitKey x).fb = s.fb := rfl
@[simp] theorem State.awaitKey_key (x : Nibble) : (s.awaitKey x).key = s.key := rfl
@[simp] theorem State.awaitKey_mode (x : Nibble) : (s.awaitKey x).mode = .waitKey := rfl
@[simp] theorem State.awaitKey_waitx (x : Nibble) : (s.awaitKey x).waitx = x := rfl
@[simp] theorem State.awaitKey_cause (x : Nibble) : (s.awaitKey x).cause = s.cause := rfl
@[simp] theorem State.awaitKey_finfo (x : Nibble) : (s.awaitKey x).finfo = s.finfo := rfl
@[simp] theorem State.awaitKey_font (x : Nibble) : (s.awaitKey x).font = s.font := rfl
@[simp] theorem State.awaitKey_loadOpen (x : Nibble) : (s.awaitKey x).loadOpen = s.loadOpen := rfl
@[simp] theorem State.awaitKey_schedule (x : Nibble) : (s.awaitKey x).schedule = s.schedule := rfl
@[simp] theorem State.awaitKey_environment (x : Nibble) : (s.awaitKey x).environment = s.environment := rfl
@[simp] theorem State.awaitKey_draws (x : Nibble) : (s.awaitKey x).draws = s.draws := rfl
@[simp] theorem State.awaitKey_drawn (x : Nibble) : (s.awaitKey x).drawn = s.drawn := rfl
@[simp] theorem State.awaitKey_readV (x : Nibble) (r : Nibble) : (s.awaitKey x).readV r = s.readV r := rfl
@[simp] theorem State.awaitKey_slot (x : Nibble) (j : Nibble) : (s.awaitKey x).slot j = s.slot j := rfl
@[simp] theorem State.awaitKey_byteAt (x : Nibble) (q : Nat) : (s.awaitKey x).byteAt q = s.byteAt q := rfl
@[simp] theorem State.awaitKey_readKey (x : Nibble) (j : Nibble) : (s.awaitKey x).readKey j = s.readKey j := rfl
@[simp] theorem State.awaitKey_memWf (x : Nibble) : (s.awaitKey x).memWf = s.memWf := rfl

/-! ### putByte -/

@[simp] theorem State.putByte_v (a : Nat) (b : Byte) : (s.putByte a b).v = s.v := rfl
@[simp] theorem State.putByte_i (a : Nat) (b : Byte) : (s.putByte a b).i = s.i := rfl
@[simp] theorem State.putByte_pc (a : Nat) (b : Byte) : (s.putByte a b).pc = s.pc := rfl
@[simp] theorem State.putByte_sp (a : Nat) (b : Byte) : (s.putByte a b).sp = s.sp := rfl
@[simp] theorem State.putByte_stack (a : Nat) (b : Byte) : (s.putByte a b).stack = s.stack := rfl
@[simp] theorem State.putByte_dt (a : Nat) (b : Byte) : (s.putByte a b).dt = s.dt := rfl
@[simp] theorem State.putByte_st (a : Nat) (b : Byte) : (s.putByte a b).st = s.st := rfl
@[simp] theorem State.putByte_mem (a : Nat) (b : Byte) : (s.putByte a b).mem = Memory.set (resetByte s.font) s.mem a b := rfl
@[simp] theorem State.putByte_fb (a : Nat) (b : Byte) : (s.putByte a b).fb = s.fb := rfl
@[simp] theorem State.putByte_key (a : Nat) (b : Byte) : (s.putByte a b).key = s.key := rfl
@[simp] theorem State.putByte_mode (a : Nat) (b : Byte) : (s.putByte a b).mode = s.mode := rfl
@[simp] theorem State.putByte_waitx (a : Nat) (b : Byte) : (s.putByte a b).waitx = s.waitx := rfl
@[simp] theorem State.putByte_cause (a : Nat) (b : Byte) : (s.putByte a b).cause = s.cause := rfl
@[simp] theorem State.putByte_finfo (a : Nat) (b : Byte) : (s.putByte a b).finfo = s.finfo := rfl
@[simp] theorem State.putByte_font (a : Nat) (b : Byte) : (s.putByte a b).font = s.font := rfl
@[simp] theorem State.putByte_loadOpen (a : Nat) (b : Byte) : (s.putByte a b).loadOpen = s.loadOpen := rfl
@[simp] theorem State.putByte_schedule (a : Nat) (b : Byte) : (s.putByte a b).schedule = s.schedule := rfl
@[simp] theorem State.putByte_environment (a : Nat) (b : Byte) : (s.putByte a b).environment = s.environment := rfl
@[simp] theorem State.putByte_draws (a : Nat) (b : Byte) : (s.putByte a b).draws = s.draws := rfl
@[simp] theorem State.putByte_drawn (a : Nat) (b : Byte) : (s.putByte a b).drawn = s.drawn := rfl
@[simp] theorem State.putByte_readV (a : Nat) (b : Byte) (r : Nibble) : (s.putByte a b).readV r = s.readV r := rfl
@[simp] theorem State.putByte_slot (a : Nat) (b : Byte) (j : Nibble) : (s.putByte a b).slot j = s.slot j := rfl
@[simp] theorem State.putByte_readKey (a : Nat) (b : Byte) (j : Nibble) : (s.putByte a b).readKey j = s.readKey j := rfl

/-! ### setFlag -/

@[simp] theorem State.setFlag_v (c : Bool) : (s.setFlag c).v = s.v.set regVF.toNat (flagByte c) regVF.isLt := rfl
@[simp] theorem State.setFlag_i (c : Bool) : (s.setFlag c).i = s.i := rfl
@[simp] theorem State.setFlag_pc (c : Bool) : (s.setFlag c).pc = s.pc := rfl
@[simp] theorem State.setFlag_sp (c : Bool) : (s.setFlag c).sp = s.sp := rfl
@[simp] theorem State.setFlag_stack (c : Bool) : (s.setFlag c).stack = s.stack := rfl
@[simp] theorem State.setFlag_dt (c : Bool) : (s.setFlag c).dt = s.dt := rfl
@[simp] theorem State.setFlag_st (c : Bool) : (s.setFlag c).st = s.st := rfl
@[simp] theorem State.setFlag_mem (c : Bool) : (s.setFlag c).mem = s.mem := rfl
@[simp] theorem State.setFlag_fb (c : Bool) : (s.setFlag c).fb = s.fb := rfl
@[simp] theorem State.setFlag_key (c : Bool) : (s.setFlag c).key = s.key := rfl
@[simp] theorem State.setFlag_mode (c : Bool) : (s.setFlag c).mode = s.mode := rfl
@[simp] theorem State.setFlag_waitx (c : Bool) : (s.setFlag c).waitx = s.waitx := rfl
@[simp] theorem State.setFlag_cause (c : Bool) : (s.setFlag c).cause = s.cause := rfl
@[simp] theorem State.setFlag_finfo (c : Bool) : (s.setFlag c).finfo = s.finfo := rfl
@[simp] theorem State.setFlag_font (c : Bool) : (s.setFlag c).font = s.font := rfl
@[simp] theorem State.setFlag_loadOpen (c : Bool) : (s.setFlag c).loadOpen = s.loadOpen := rfl
@[simp] theorem State.setFlag_schedule (c : Bool) : (s.setFlag c).schedule = s.schedule := rfl
@[simp] theorem State.setFlag_environment (c : Bool) : (s.setFlag c).environment = s.environment := rfl
@[simp] theorem State.setFlag_draws (c : Bool) : (s.setFlag c).draws = s.draws := rfl
@[simp] theorem State.setFlag_drawn (c : Bool) : (s.setFlag c).drawn = s.drawn := rfl
@[simp] theorem State.setFlag_slot (c : Bool) (j : Nibble) : (s.setFlag c).slot j = s.slot j := rfl
@[simp] theorem State.setFlag_byteAt (c : Bool) (q : Nat) : (s.setFlag c).byteAt q = s.byteAt q := rfl
@[simp] theorem State.setFlag_readKey (c : Bool) (j : Nibble) : (s.setFlag c).readKey j = s.readKey j := rfl
@[simp] theorem State.setFlag_memWf (c : Bool) : (s.setFlag c).memWf = s.memWf := rfl

/-! ### consumeDraw -/

@[simp] theorem State.consumeDraw_v : (s.consumeDraw).v = s.v := rfl
@[simp] theorem State.consumeDraw_i : (s.consumeDraw).i = s.i := rfl
@[simp] theorem State.consumeDraw_pc : (s.consumeDraw).pc = s.pc := rfl
@[simp] theorem State.consumeDraw_sp : (s.consumeDraw).sp = s.sp := rfl
@[simp] theorem State.consumeDraw_stack : (s.consumeDraw).stack = s.stack := rfl
@[simp] theorem State.consumeDraw_dt : (s.consumeDraw).dt = s.dt := rfl
@[simp] theorem State.consumeDraw_st : (s.consumeDraw).st = s.st := rfl
@[simp] theorem State.consumeDraw_mem : (s.consumeDraw).mem = s.mem := rfl
@[simp] theorem State.consumeDraw_fb : (s.consumeDraw).fb = s.fb := rfl
@[simp] theorem State.consumeDraw_key : (s.consumeDraw).key = s.key := rfl
@[simp] theorem State.consumeDraw_mode : (s.consumeDraw).mode = s.mode := rfl
@[simp] theorem State.consumeDraw_waitx : (s.consumeDraw).waitx = s.waitx := rfl
@[simp] theorem State.consumeDraw_cause : (s.consumeDraw).cause = s.cause := rfl
@[simp] theorem State.consumeDraw_finfo : (s.consumeDraw).finfo = s.finfo := rfl
@[simp] theorem State.consumeDraw_font : (s.consumeDraw).font = s.font := rfl
@[simp] theorem State.consumeDraw_loadOpen : (s.consumeDraw).loadOpen = s.loadOpen := rfl
@[simp] theorem State.consumeDraw_schedule : (s.consumeDraw).schedule = s.schedule := rfl
@[simp] theorem State.consumeDraw_environment : (s.consumeDraw).environment = s.environment := rfl
@[simp] theorem State.consumeDraw_draws : (s.consumeDraw).draws = s.draws.tail := rfl
@[simp] theorem State.consumeDraw_readV (r : Nibble) : (s.consumeDraw).readV r = s.readV r := rfl
@[simp] theorem State.consumeDraw_slot (j : Nibble) : (s.consumeDraw).slot j = s.slot j := rfl
@[simp] theorem State.consumeDraw_byteAt (q : Nat) : (s.consumeDraw).byteAt q = s.byteAt q := rfl
@[simp] theorem State.consumeDraw_readKey (j : Nibble) : (s.consumeDraw).readKey j = s.readKey j := rfl
@[simp] theorem State.consumeDraw_memWf : (s.consumeDraw).memWf = s.memWf := rfl

end Sys2Proof.Machine
end

