-- ==== Sys2Proof/Laws/Memory.lean ====
section
/-! SUPPORT. Memory as a canonical list: a read after a write, the bytes a write leaves alone, and that
every memory operation keeps the canonical form. -/

namespace Sys2Proof.Machine

variable {d : Nat → Byte}

/-- A write leaves every other address alone, in any list. -/
theorem Memory.get_set_ne (m : List Host.Cell) {a q : Nat} (b : Byte) (h : q ≠ a) :
    Memory.get d (Memory.set d m a b) q = Memory.get d m q := by
  induction m with
  | nil =>
    by_cases hb : b = d a
    · simp [Memory.set, hb]
    · simp [Memory.set, hb, Memory.get, Ne.symm h]
  | cons c m ih =>
    by_cases h1 : a < c.1
    · by_cases hb : b = d a
      · simp [Memory.set, h1, hb]
      · simp [Memory.set, h1, hb, Memory.get, Ne.symm h]
    · by_cases h2 : a = c.1
      · by_cases hb : b = d a
        · simp [Memory.set, ← h2, hb, Memory.get, Ne.symm h]
        · simp [Memory.set, ← h2, hb, Memory.get, Ne.symm h]
      · simp [Memory.set, h1, h2, Memory.get, ih]

/-- Below the least address a canonical list can hold, a read gives the reset contents. -/
theorem Memory.get_below {m : List Host.Cell} {lo a : Nat}
    (h : Memory.wfAbove d m lo = true) (ha : a < lo) : Memory.get d m a = d a := by
  induction m generalizing lo with
  | nil => rfl
  | cons c m ih =>
    simp only [Memory.wfAbove, Bool.and_eq_true, decide_eq_true_eq] at h
    have hc : c.1 ≠ a := by omega
    simp only [Memory.get, if_neg hc]
    exact ih h.2 (by omega)

/-- A read after a write to the same address gives the byte written, in a canonical list. -/
theorem Memory.get_set_same {m : List Host.Cell} {lo a : Nat} (b : Byte)
    (h : Memory.wfAbove d m lo = true) : Memory.get d (Memory.set d m a b) a = b := by
  induction m generalizing lo with
  | nil =>
    by_cases hb : b = d a
    · simp [Memory.set, hb, Memory.get]
    · simp [Memory.set, hb, Memory.get]
  | cons c m ih =>
    simp only [Memory.wfAbove, Bool.and_eq_true, decide_eq_true_eq] at h
    by_cases h1 : a < c.1
    · by_cases hb : b = d a
      · have hc : c.1 ≠ a := by omega
        simp only [Memory.set, if_pos h1, if_pos hb, Memory.get, if_neg hc]
        exact (Memory.get_below h.2 (by omega)).trans hb.symm
      · simp [Memory.set, h1, hb, Memory.get]
    · by_cases h2 : a = c.1
      · by_cases hb : b = d a
        · simp only [Memory.set, if_neg h1, if_pos h2, if_pos hb]
          exact (Memory.get_below h.2 (by omega)).trans hb.symm
        · simp [Memory.set, ← h2, hb, Memory.get]
      · have hc : c.1 ≠ a := fun e => h2 e.symm
        simp only [Memory.set, if_neg h1, if_neg h2, Memory.get, if_neg hc]
        exact ih h.2

/-- A canonical list is canonical above every lower bound below its first address. -/
theorem Memory.wfAbove_mono {m : List Host.Cell} {lo lo' : Nat}
    (h : Memory.wfAbove d m lo = true) (hl : lo' ≤ lo) : Memory.wfAbove d m lo' = true := by
  cases m with
  | nil => rfl
  | cons c m =>
    simp only [Memory.wfAbove, Bool.and_eq_true, decide_eq_true_eq] at h ⊢
    exact ⟨⟨⟨by omega, h.1.1.2⟩, h.1.2⟩, h.2⟩

/-- A write inside the address space keeps the canonical form. -/
theorem Memory.wfAbove_set {m : List Host.Cell} {lo a : Nat} (b : Byte)
    (h : Memory.wfAbove d m lo = true) (hlo : lo ≤ a) (ha : a < 4096) :
    Memory.wfAbove d (Memory.set d m a b) lo = true := by
  induction m generalizing lo with
  | nil =>
    by_cases hb : b = d a
    · simp [Memory.set, hb, Memory.wfAbove]
    · simp [Memory.set, hb, Memory.wfAbove, hlo, ha]
  | cons c m ih =>
    have hw := h
    simp only [Memory.wfAbove, Bool.and_eq_true, decide_eq_true_eq, bne_iff_ne] at h
    by_cases h1 : a < c.1
    · by_cases hb : b = d a
      · simpa [Memory.set, h1, hb] using hw
      · simp only [Memory.set, if_pos h1, if_neg hb, Memory.wfAbove, Bool.and_eq_true,
          decide_eq_true_eq, bne_iff_ne]
        exact ⟨⟨⟨hlo, ha⟩, hb⟩, ⟨⟨⟨by omega, h.1.1.2⟩, h.1.2⟩, h.2⟩⟩
    · by_cases h2 : a = c.1
      · by_cases hb : b = d a
        · simp only [Memory.set, if_neg h1, if_pos h2, if_pos hb]
          exact Memory.wfAbove_mono h.2 (by omega)
        · simp only [Memory.set, if_neg h1, if_pos h2, if_neg hb, Memory.wfAbove,
            Bool.and_eq_true, decide_eq_true_eq, bne_iff_ne]
          exact ⟨⟨⟨hlo, ha⟩, hb⟩, by rw [h2]; exact h.2⟩
      · simp only [Memory.set, if_neg h1, if_neg h2, Memory.wfAbove, Bool.and_eq_true,
          decide_eq_true_eq, bne_iff_ne]
        exact ⟨h.1, ih h.2 (by omega)⟩

/-! ### The same, of the state -/

/-- The bytes `putByte` leaves alone. -/
theorem State.putByte_byteAt_ne (s : State) {a q : Nat} (b : Byte) (h : q ≠ a) :
    (s.putByte a b).byteAt q = s.byteAt q :=
  Memory.get_set_ne s.mem b h

/-- The byte `putByte` writes. -/
theorem State.putByte_byteAt_same {s : State} (a : Nat) (b : Byte) (h : s.memWf = true) :
    (s.putByte a b).byteAt a = b :=
  Memory.get_set_same b h

/-- `putByte` inside the address space keeps memory canonical. -/
theorem State.putByte_memWf {s : State} {a : Nat} (b : Byte) (h : s.memWf = true) (ha : a < 4096) :
    (s.putByte a b).memWf = true :=
  Memory.wfAbove_set b h (Nat.zero_le a) ha

/-- Reset memory is canonical, whatever the FONT. -/
theorem Memory.wf_nil : Memory.wf d [] = true := rfl

end Sys2Proof.Machine
end

