-- ==== Sys2Proof/Laws/Frame.lean ====
section
/-! SUPPORT. Composing frames: what leaves which components alone. -/

namespace Sys2Proof.Machine

theorem Agree.refl (c : Component) (s : State) : Agree c s s := by
  cases c <;> simp [Agree]

theorem Agree.trans {c : Component} {s t u : State} (h : Agree c s t) (k : Agree c t u) :
    Agree c s u := by
  cases c <;> simp_all [Agree]

theorem SameExcept.refl (cs : List Component) (s : State) : SameExcept cs s s :=
  fun c _ => Agree.refl c s

theorem SameExcept.trans {cs : List Component} {s t u : State} (h : SameExcept cs s t)
    (k : SameExcept cs t u) : SameExcept cs s u :=
  fun c hc => (h c hc).trans (k c hc)

/-- A frame may list more. -/
theorem SameExcept.mono {cs ds : List Component} {s t : State} (h : SameExcept cs s t)
    (hd : ∀ c ∈ cs, c ∈ ds) : SameExcept ds s t :=
  fun c hc => h c fun hm => hc (hd c hm)

/-! ### One frame per update -/

section
variable (s : State)

theorem State.writeV_frame (x : Nibble) (b : Byte) : SameExcept [.v] s (s.writeV x b) := by
  intro c hc; cases c <;> simp_all [Agree]

theorem State.setI_frame (w : Word) : SameExcept [.i] s (s.setI w) := by
  intro c hc; cases c <;> simp_all [Agree]

theorem State.setPc_frame (w : Word) : SameExcept [.pc] s (s.setPc w) := by
  intro c hc; cases c <;> simp_all [Agree]

theorem State.setMode_frame (m : Mode) : SameExcept [.mode] s (s.setMode m) := by
  intro c hc; cases c <;> simp_all [Agree]

theorem State.endTurn_frame : SameExcept [.schedule, .environment] s s.endTurn := by
  intro c hc; cases c <;> simp_all [Agree]

theorem State.closeLoad_frame : SameExcept [.loadOpen] s s.closeLoad := by
  intro c hc; cases c <;> simp_all [Agree]

theorem State.setSp_frame (b : Byte) : SameExcept [.sp] s (s.setSp b) := by
  intro c hc; cases c <;> simp_all [Agree]

theorem State.setDt_frame (b : Byte) : SameExcept [.dt] s (s.setDt b) := by
  intro c hc; cases c <;> simp_all [Agree]

theorem State.setSt_frame (b : Byte) : SameExcept [.st] s (s.setSt b) := by
  intro c hc; cases c <;> simp_all [Agree]

theorem State.setFb_frame (f : Screen) : SameExcept [.fb] s (s.setFb f) := by
  intro c hc; cases c <;> simp_all [Agree]

theorem State.setSlot_frame (k : Nibble) (w : Word) : SameExcept [.stack] s (s.setSlot k w) := by
  intro c hc; cases c <;> simp_all [Agree]

theorem State.writeKey_frame (k : Nibble) (b : Bool) : SameExcept [.key] s (s.writeKey k b) := by
  intro c hc; cases c <;> simp_all [Agree]

theorem State.raise_frame (c : Cause) (n : Nat) :
    SameExcept [.mode, .cause, .finfo] s (s.raise c n) := by
  intro c hc; cases c <;> simp_all [Agree]

theorem State.awaitKey_frame (x : Nibble) : SameExcept [.mode, .waitx] s (s.awaitKey x) := by
  intro c hc; cases c <;> simp_all [Agree]

theorem State.putByte_frame (a : Nat) (b : Byte) : SameExcept [.mem] s (s.putByte a b) := by
  intro c hc; cases c <;> simp_all [Agree]

theorem State.setFlag_frame (b : Bool) : SameExcept [.v] s (s.setFlag b) :=
  s.writeV_frame regVF (flagByte b)

theorem State.consumeDraw_frame : SameExcept [.draws, .drawn] s s.consumeDraw := by
  intro c hc; cases c <;> simp_all [Agree]

theorem State.skipIf_frame (b : Bool) : SameExcept [.pc] s (s.skipIf b) := by
  cases b
  · exact SameExcept.refl _ _
  · exact s.setPc_frame _

end

end Sys2Proof.Machine
end

