-- ==== Sys2Proof/Laws/Ops.lean ====
section
/-! SUPPORT. One lemma per shared operation that says everything it can do. -/

namespace Sys2Proof.Machine

/-! ### Registers, slots, keys: a read after a write -/

theorem State.readV_writeV_same (s : State) (x : Nibble) (b : Byte) : (s.writeV x b).readV x = b := by
  simp [State.readV]

theorem State.readV_writeV_ne (s : State) {x r : Nibble} (b : Byte) (h : r ≠ x) :
    (s.writeV x b).readV r = s.readV r := by
  have hn : x.toNat ≠ r.toNat := fun e => h (BitVec.eq_of_toNat_eq e.symm)
  simp [State.readV, hn]

theorem State.readV_writeV (s : State) (x r : Nibble) (b : Byte) :
    (s.writeV x b).readV r = if r = x then b else s.readV r := by
  split
  · next h => rw [h, s.readV_writeV_same]
  · next h => exact s.readV_writeV_ne b h

theorem State.readV_setFlag (s : State) (r : Nibble) (c : Bool) :
    (s.setFlag c).readV r = if r = regVF then flagByte c else s.readV r :=
  s.readV_writeV regVF r _

/-- VF after `setFlag`, by its number. -/
theorem State.readV_setFlag_vf (s : State) (c : Bool) : (s.setFlag c).readV 15 = flagByte c :=
  s.readV_writeV_same 15 _

theorem State.readV_setFlag_ne (s : State) {r : Nibble} (c : Bool) (h : r ≠ 15) :
    (s.setFlag c).readV r = s.readV r :=
  s.readV_writeV_ne _ h

/-- A write of one register: its value, and that nothing else changes. -/
theorem State.writeV_spec (s : State) (x : Nibble) (b : Byte) :
    (s.writeV x b).readV x = b ∧ OnlyRegs (· = x) s (s.writeV x b) ∧
    SameExcept [.v] s (s.writeV x b) :=
  ⟨s.readV_writeV_same x b, fun _ hr => s.readV_writeV_ne b hr, s.writeV_frame x b⟩

/-- The two writes of a flag writer: VF holds the flag unless the destination is VF. -/
theorem State.setFlag_writeV_spec (s : State) (c : Bool) (x : Nibble) (b : Byte) :
    ((s.setFlag c).writeV x b).readV x = b ∧
    (x ≠ 15 → ((s.setFlag c).writeV x b).readV 15 = flagByte c) ∧
    OnlyRegs (fun r => r = x ∨ r = 15) s ((s.setFlag c).writeV x b) ∧
    SameExcept [.v] s ((s.setFlag c).writeV x b) := by
  refine ⟨State.readV_writeV_same _ x b, fun hx => ?_, fun r hr => ?_,
    (s.setFlag_frame c).trans (State.writeV_frame _ x b)⟩
  · rw [State.readV_writeV_ne _ b (Ne.symm hx), s.readV_setFlag_vf]
  · rw [not_or] at hr
    rw [State.readV_writeV_ne _ b hr.1, s.readV_setFlag_ne c hr.2]

/-- Where PC stands after a skip. -/
theorem State.skipIf_pc (s : State) (c : Bool) :
    (s.skipIf c).pc = if c then s.pc + 2 else s.pc := by
  cases c <;> rfl

theorem State.slot_setSlot (s : State) (k j : Nibble) (w : Word) :
    (s.setSlot k w).slot j = if j = k then w else s.slot j := by
  split
  · next h => subst h; simp [State.slot]
  · next h =>
    have hn : k.toNat ≠ j.toNat := fun e => h (BitVec.eq_of_toNat_eq e.symm)
    simp [State.slot, hn]

theorem State.readKey_writeKey (s : State) (k j : Nibble) (b : Bool) :
    (s.writeKey k b).readKey j = if j = k then b else s.readKey j := by
  split
  · next h => subst h; simp [State.readKey]
  · next h =>
    have hn : k.toNat ≠ j.toNat := fun e => h (BitVec.eq_of_toNat_eq e.symm)
    simp [State.readKey, hn]

/-! ### Fault entry -/

/-- What a fault entry leaves behind, for an information value that FINFO can hold. -/
theorem State.raise_faulted (s : State) (c : Cause) {n : Nat} (h : n < 131072) :
    Faulted c n (s.raise c n) :=
  ⟨rfl, rfl, by simp [Nat.mod_eq_of_lt h]⟩

/-! ### Memory access -/

/-- The first address above 4095 is the same seen from the next address. -/
theorem firstOutOfRange_succ {a : Nat} (h : a ≤ 4095) : firstOutOfRange (a + 1) = firstOutOfRange a := by
  unfold firstOutOfRange
  rw [if_pos h]
  by_cases h' : a + 1 ≤ 4095
  · rw [if_pos h']
  · rw [if_neg h']; omega

theorem State.memRead_ok (s : State) {a : Nat} (h : a ≤ 4095) :
    s.memRead a = .ok (s.byteAt a) s :=
  if_neg (by omega)

theorem State.memRead_raised (s : State) {a : Nat} (h : 4095 < a) :
    s.memRead a = .raised (s.raise .memOutOfBounds a) :=
  if_pos h

theorem State.memWrite_ok (s : State) {a : Nat} (b : Byte) (h : a ≤ 4095) :
    s.memWrite a b = .ok () (s.putByte a b) :=
  if_neg (by omega)

theorem State.memWrite_raised (s : State) {a : Nat} (b : Byte) (h : 4095 < a) :
    s.memWrite a b = .raised (s.raise .memOutOfBounds a) :=
  if_pos h

/-- The word read, case by case (20_memory.md R47). -/
theorem State.memReadWord_cases (s : State) (a : Nat) :
    (a ≤ 4094 ∧ s.memReadWord a = .ok (s.byteAt a ++ s.byteAt (a + 1)) s) ∨
    (a = 4095 ∧ s.memReadWord a = .raised (s.raise .memOutOfBounds 4096)) ∨
    (4096 ≤ a ∧ s.memReadWord a = .raised (s.raise .memOutOfBounds a)) := by
  by_cases h1 : a ≤ 4094
  · exact .inl ⟨h1, by simp only [State.memReadWord, if_neg (show ¬ a > 4095 by omega),
      if_neg (show ¬ a + 1 > 4095 by omega)]⟩
  · by_cases h2 : a = 4095
    · exact .inr (.inl ⟨h2, by subst h2; rfl⟩)
    · exact .inr (.inr ⟨by omega, if_pos (show a > 4095 by omega)⟩)

/-- Byte reads that stay inside memory give the bytes, and change nothing. -/
theorem State.readBytes_ok (s : State) {a n : Nat} (h : a + n ≤ 4096) :
    s.readBytes a n = .ok ((List.range n).map fun k => s.byteAt (a + k)) s := by
  induction n generalizing a with
  | zero => rfl
  | succ n ih =>
    simp only [State.readBytes, s.memRead_ok (show a ≤ 4095 by omega),
      ih (show a + 1 + n ≤ 4096 by omega), List.range_succ_eq_map, List.map_cons, List.map_map,
      Nat.add_zero]
    congr 2
    apply List.map_congr_left
    intro k _
    simp only [Function.comp, Nat.succ_eq_add_one]
    congr 1
    omega

/-- Byte reads that leave memory raise at the first address above 4095, and change nothing else. -/
theorem State.readBytes_raised (s : State) {a n : Nat} (h : 4096 < a + n) (hn : n ≠ 0) :
    s.readBytes a n = .raised (s.raise .memOutOfBounds (firstOutOfRange a)) := by
  induction n generalizing a with
  | zero => exact absurd rfl hn
  | succ n ih =>
    by_cases ha : a ≤ 4095
    · have hf := firstOutOfRange_succ ha
      simp only [State.readBytes, s.memRead_ok ha, ih (show 4096 < a + 1 + n by omega) (by omega), hf]
    · have hf : firstOutOfRange a = a := if_neg ha
      simp only [State.readBytes, s.memRead_raised (show 4095 < a by omega), hf]

/-- Stores that stay inside memory complete. -/
theorem State.storeBytes_ok (s : State) {a : Nat} {bs : List Byte} (h : a + bs.length ≤ 4096) :
    s.storeBytes a bs = .ok () (s.storeBytes a bs).state := by
  induction bs generalizing s a with
  | nil => rfl
  | cons b bs ih =>
    simp only [List.length_cons] at h
    simp only [State.storeBytes, s.memWrite_ok b (show a ≤ 4095 by omega)]
    exact ih _ (by omega)

/-- Stores that leave memory store the bytes that fit and raise at the first address above 4095. -/
theorem State.storeBytes_raised (s : State) {a : Nat} {bs : List Byte} (h : 4096 < a + bs.length)
    (hb : bs ≠ []) :
    s.storeBytes a bs = .raised (((s.storeBytes a (bs.take (4096 - a))).state).raise
      .memOutOfBounds (firstOutOfRange a)) := by
  induction bs generalizing s a with
  | nil => exact absurd rfl hb
  | cons b bs ih =>
    simp only [List.length_cons] at h
    by_cases ha : a ≤ 4095
    · obtain ⟨k, hk⟩ : ∃ k, 4096 - a = k + 1 := ⟨4095 - a, by omega⟩
      have hk' : 4096 - (a + 1) = k := by omega
      have hf := firstOutOfRange_succ ha
      have hne : bs ≠ [] := by
        intro hnil
        subst hnil
        simp only [List.length_nil] at h
        omega
      simp only [State.storeBytes, s.memWrite_ok b ha, hk, List.take_succ_cons]
      rw [ih (s.putByte a b) (show 4096 < a + 1 + bs.length by omega) hne, hf, hk']
    · have h0 : 4096 - a = 0 := by omega
      have hf : firstOutOfRange a = a := if_neg ha
      simp only [State.storeBytes, s.memWrite_raised b (show 4095 < a by omega), h0, List.take_zero,
        Run.state, hf]

/-- Stores that stay inside memory change nothing but memory. -/
theorem State.storeBytes_frame (s : State) {a : Nat} {bs : List Byte} (h : a + bs.length ≤ 4096) :
    SameExcept [.mem] s (s.storeBytes a bs).state := by
  induction bs generalizing s a with
  | nil => exact SameExcept.refl _ _
  | cons b bs ih =>
    simp only [List.length_cons] at h
    simp only [State.storeBytes, s.memWrite_ok b (show a ≤ 4095 by omega)]
    exact (s.putByte_frame a b).trans (ih _ (by omega))

/-- Stores that stay inside memory leave every address outside their range alone. -/
theorem State.storeBytes_outside (s : State) {a q : Nat} {bs : List Byte}
    (h : a + bs.length ≤ 4096) (hq : q < a ∨ a + bs.length ≤ q) :
    (s.storeBytes a bs).state.byteAt q = s.byteAt q := by
  induction bs generalizing s a with
  | nil => rfl
  | cons b bs ih =>
    simp only [List.length_cons] at h hq
    simp only [State.storeBytes, s.memWrite_ok b (show a ≤ 4095 by omega)]
    rw [ih _ (by omega) (by omega), s.putByte_byteAt_ne b (by omega)]

/-- Stores that stay inside memory keep its canonical form. -/
theorem State.storeBytes_memWf {s : State} {a : Nat} {bs : List Byte} (hw : s.memWf = true)
    (h : a + bs.length ≤ 4096) : (s.storeBytes a bs).state.memWf = true := by
  induction bs generalizing s a with
  | nil => exact hw
  | cons b bs ih =>
    simp only [List.length_cons] at h
    simp only [State.storeBytes, s.memWrite_ok b (show a ≤ 4095 by omega)]
    exact ih (State.putByte_memWf b hw (show a < 4096 by omega)) (by omega)

/-- Stores that stay inside memory leave the k-th byte at the k-th address. -/
theorem State.storeBytes_inside {s : State} {a k : Nat} {bs : List Byte} (hw : s.memWf = true)
    (h : a + bs.length ≤ 4096) (hk : k < bs.length) :
    (s.storeBytes a bs).state.byteAt (a + k) = bs[k] := by
  induction bs generalizing s a k with
  | nil => simp at hk
  | cons b bs ih =>
    simp only [List.length_cons] at h hk
    simp only [State.storeBytes, s.memWrite_ok b (show a ≤ 4095 by omega)]
    cases k with
    | zero =>
      rw [Nat.add_zero, State.storeBytes_outside _ (show a + 1 + bs.length ≤ 4096 by omega)
        (.inl (by omega))]
      exact State.putByte_byteAt_same a b hw
    | succ k =>
      have hw' := State.putByte_memWf (a := a) b hw (by omega)
      have := ih (a := a + 1) (k := k) hw' (by omega) (by omega)
      rw [show a + (k + 1) = a + 1 + k by omega]
      simpa using this

/-- What `loadBytes` does to the registers while it stays inside memory: `n` registers from `r`. -/
theorem State.loadBytes_ok (s : State) {r a n : Nat} (h : a + n ≤ 4096) (hr : r + n ≤ 16) :
    ∃ t, s.loadBytes r a n = .ok () t ∧ SameExcept [.v] s t ∧ ∀ q : Nibble,
      t.readV q = if r ≤ q.toNat ∧ q.toNat < r + n then s.byteAt (a + (q.toNat - r)) else s.readV q := by
  induction n generalizing s r a with
  | zero =>
    refine ⟨s, rfl, SameExcept.refl _ _, fun q => ?_⟩
    rw [if_neg (by omega)]
  | succ n ih =>
    obtain ⟨t, ht, hf, hv⟩ := ih (s.writeV (BitVec.ofNat 4 r) (s.byteAt a)) (r := r + 1) (a := a + 1)
      (by omega) (by omega)
    refine ⟨t, ?_, (s.writeV_frame _ _).trans hf, fun q => ?_⟩
    · simpa only [State.loadBytes, s.memRead_ok (show a ≤ 4095 by omega)] using ht
    · rw [hv q, State.writeV_byteAt, State.readV_writeV]
      have hq : q = BitVec.ofNat 4 r ↔ q.toNat = r := by
        constructor
        · rintro rfl; simp [Nat.mod_eq_of_lt (show r < 16 by omega)]
        · intro e; exact BitVec.eq_of_toNat_eq (by simp [e, Nat.mod_eq_of_lt (show r < 16 by omega)])
      by_cases h1 : q.toNat = r
      · rw [if_neg (by omega), if_pos (hq.mpr h1), if_pos (by omega), h1, Nat.sub_self, Nat.add_zero]
      · rw [if_neg (mt hq.mp h1)]
        by_cases h2 : r + 1 ≤ q.toNat ∧ q.toNat < r + 1 + n
        · rw [if_pos h2, if_pos (by omega), show a + 1 + (q.toNat - (r + 1)) = a + (q.toNat - r) by omega]
        · rw [if_neg h2, if_neg (by omega)]

/-- Loads that leave memory load the registers whose bytes exist and raise at the first address above
4095. -/
theorem State.loadBytes_raised (s : State) {r a n : Nat} (h : 4096 < a + n) (hn : n ≠ 0) :
    s.loadBytes r a n = .raised (((s.loadBytes r a (4096 - a)).state).raise .memOutOfBounds
      (firstOutOfRange a)) := by
  induction n generalizing s r a with
  | zero => exact absurd rfl hn
  | succ n ih =>
    by_cases ha : a ≤ 4095
    · obtain ⟨k, hk⟩ : ∃ k, 4096 - a = k + 1 := ⟨4095 - a, by omega⟩
      have hk' : 4096 - (a + 1) = k := by omega
      have hf := firstOutOfRange_succ ha
      simp only [State.loadBytes, s.memRead_ok ha, hk]
      rw [ih _ (show 4096 < a + 1 + n by omega) (by omega), hf, hk']
    · have h0 : 4096 - a = 0 := by omega
      have hf : firstOutOfRange a = a := if_neg ha
      simp only [State.loadBytes, s.memRead_raised (show 4095 < a by omega), h0, Run.state, hf]

/-! ### The call stack -/

theorem State.push_ok (s : State) (w : Word) (h : s.sp.toNat < 16) :
    s.push w = .ok () ((s.setSlot (s.sp.setWidth 4) w).setSp (s.sp + 1)) :=
  if_neg (by omega)

theorem State.push_raised (s : State) (w : Word) (h : 16 ≤ s.sp.toNat) :
    s.push w = .raised (s.raise .stackOverflow 0) :=
  if_pos h

theorem State.pop_ok (s : State) (h1 : 1 ≤ s.sp.toNat) (h2 : s.sp.toNat ≤ 16) :
    s.pop = .ok (s.slot ((s.sp - 1).setWidth 4)) (s.setSp (s.sp - 1)) := by
  have : ¬ (s.sp - 1).toNat ≥ 16 := by bv_omega
  exact if_neg this

theorem State.pop_raised (s : State) (h : s.sp.toNat = 0 ∨ 16 < s.sp.toNat) :
    s.pop = .raised ((s.setSp (s.sp - 1)).raise .stackUnderflow 0) := by
  have : (s.sp - 1).toNat ≥ 16 := by bv_omega
  exact if_pos this

/-! ### Keys -/

theorem State.keyOperand_ok (s : State) (x : Nibble) (h : (s.readV x).toNat ≤ 15) :
    s.keyOperand x = .ok ((s.readV x).setWidth 4) s :=
  if_neg (by omega)

theorem State.keyOperand_raised (s : State) (x : Nibble) (h : 15 < (s.readV x).toNat) :
    s.keyOperand x = .raised (s.raise .keyIndexOutOfRange (s.readV x).toNat) :=
  if_pos h

/-- A program image: the bytes land in order, and nothing else of memory changes. -/
theorem State.putBytes_spec {s : State} {a : Nat} {bs : List Byte} (hw : s.memWf = true)
    (h : a + bs.length ≤ 4096) :
    (s.putBytes a bs).memWf = true ∧ SameExcept [.mem] s (s.putBytes a bs) ∧
    (∀ (k : Nat) (hk : k < bs.length), (s.putBytes a bs).byteAt (a + k) = bs[k]) ∧
    ∀ q, q < a ∨ a + bs.length ≤ q → (s.putBytes a bs).byteAt q = s.byteAt q := by
  induction bs generalizing s a with
  | nil =>
    refine ⟨hw, SameExcept.refl _ _, ?_, fun _ _ => rfl⟩
    intro k hk
    simp at hk
  | cons b bs ih =>
    simp only [List.length_cons] at h
    obtain ⟨i1, i2, i3, i4⟩ := ih (s := s.putByte a b) (a := a + 1)
      (State.putByte_memWf b hw (show a < 4096 by omega)) (by omega)
    refine ⟨i1, (s.putByte_frame a b).trans i2, ?_, ?_⟩
    · intro k hk
      simp only [List.length_cons] at hk
      simp only [State.putBytes]
      cases k with
      | zero => rw [i4 _ (.inl (by omega))]; exact State.putByte_byteAt_same a b hw
      | succ k =>
        rw [show a + (k + 1) = a + 1 + k by omega]
        simpa using i3 k (by omega)
    · intro q hq
      simp only [List.length_cons] at hq
      simp only [State.putBytes]
      rw [i4 q (by omega), s.putByte_byteAt_ne b (by omega)]

end Sys2Proof.Machine
end

