-- ==== Sys2Proof/Laws/Display.lean ====
section
/-! SUPPORT. The compositor in closed form (spec/41_display.md R92): which pixel a sprite flips, and
when it reports a collision. -/

namespace Sys2Proof.Machine

/-- A flip changes one pixel, at the wrapped coordinates. -/
theorem Screen.pixel_flip (f : Screen) (X Y x y : Nat) :
    (Screen.flip f X Y).pixel x y =
      (f.pixel x y ^^ decide (x % 64 = X % 64 ∧ y % 32 = Y % 32)) := by
  unfold Screen.flip Screen.pixel
  by_cases hy : y % 32 = Y % 32
  · by_cases hx : x % 64 = X % 64
    · simp [hy, hx]
    · simp [hy, hx, Ne.symm hx]
  · simp [hy, Ne.symm hy]

theorem Screen.pixel_clear (x y : Nat) : Screen.clear.pixel x y = false := by
  simp [Screen.pixel, Screen.clear]

/-- Only the wrapped coordinates of a pixel matter. -/
theorem Screen.pixel_mod (f : Screen) {x y x' y' : Nat} (hx : x % 64 = x' % 64)
    (hy : y % 32 = y' % 32) : f.pixel x y = f.pixel x' y' := by
  unfold Screen.pixel
  simp [hx, hy]

theorem Screen.pixel_plot (bit : Bool) (X Y x y : Nat) (acc : Screen × Bool) :
    (Screen.plot bit X Y acc).1.pixel x y =
      (acc.1.pixel x y ^^ (bit && decide (x % 64 = X % 64 ∧ y % 32 = Y % 32))) := by
  cases bit <;> simp [Screen.plot, Screen.pixel_flip]

theorem Screen.collision_plot (bit : Bool) (X Y : Nat) (acc : Screen × Bool) :
    (Screen.plot bit X Y acc).2 = (acc.2 || (bit && acc.1.pixel X Y)) := by
  cases bit <;> simp [Screen.plot]

/-- The sprite column that falls on screen column `x`. -/
def spriteCol (px x : Nat) : Nat := (x + 256 - px) % 64

/-- The sprite row that falls on screen row `y`. -/
def spriteRow (py y : Nat) : Nat := (y % 32 + 32 - py % 32) % 32

theorem spriteCol_eq {px x c : Nat} (hp : px ≤ 256) (hc : c < 64) :
    spriteCol px x = c ↔ x % 64 = (px + c) % 64 := by
  unfold spriteCol
  omega

/-- The first `n` columns of a sprite row. -/
def Screen.drawCols (px y : Nat) (row : Byte) (n : Nat) (acc : Screen × Bool) : Screen × Bool :=
  (List.range n).foldl (fun acc c => Screen.plot (row.getLsbD (7 - c)) (px + c) y acc) acc

theorem Screen.drawCols_succ (px y : Nat) (row : Byte) (n : Nat) (acc : Screen × Bool) :
    Screen.drawCols px y row (n + 1) acc =
      Screen.plot (row.getLsbD (7 - n)) (px + n) y (Screen.drawCols px y row n acc) := by
  simp [Screen.drawCols, List.range_succ]

theorem Screen.pixel_drawCols {px : Nat} (hp : px ≤ 256) (Y : Nat) (row : Byte) {n : Nat} (hn : n ≤ 64)
    (acc : Screen × Bool) (x y : Nat) :
    (Screen.drawCols px Y row n acc).1.pixel x y = (acc.1.pixel x y ^^
      (decide (y % 32 = Y % 32) && (decide (spriteCol px x < n) &&
        row.getLsbD (7 - spriteCol px x)))) := by
  induction n with
  | zero => simp [Screen.drawCols]
  | succ n ih =>
    rw [Screen.drawCols_succ, Screen.pixel_plot, ih (by omega)]
    have key := spriteCol_eq (x := x) hp (show n < 64 by omega)
    by_cases hc : spriteCol px x = n
    · have hx := key.mp hc
      simp [hc, hx, Bool.and_comm]
    · have hx : ¬ x % 64 = (px + n) % 64 := mt key.mpr hc
      have hlt : (spriteCol px x < n + 1) = (spriteCol px x < n) := by
        apply propext; omega
      simp [hx, hlt]

theorem Screen.collision_drawCols {px : Nat} (hp : px ≤ 256) (Y : Nat) (row : Byte) {n : Nat}
    (hn : n ≤ 64) (acc : Screen × Bool) :
    (Screen.drawCols px Y row n acc).2 = (acc.2 ||
      (List.range n).any fun c => row.getLsbD (7 - c) && acc.1.pixel (px + c) Y) := by
  induction n with
  | zero => simp [Screen.drawCols]
  | succ n ih =>
    have hc : spriteCol px (px + n) = n := (spriteCol_eq hp (by omega)).mpr rfl
    rw [Screen.drawCols_succ, Screen.collision_plot, ih (by omega),
      Screen.pixel_drawCols hp Y row (by omega), hc]
    simp [List.range_succ, Bool.or_assoc]

/-- The rows of a sprite: which pixels they flip. -/
theorem Screen.pixel_drawRows {px : Nat} (hp : px ≤ 256) {rows : List Byte} (hr : rows.length ≤ 32)
    (Y : Nat) (acc : Screen × Bool) (x y : Nat) :
    (Screen.drawRows px Y rows acc).1.pixel x y = (acc.1.pixel x y ^^
      (match rows[spriteRow Y y]? with
        | some b => decide (spriteCol px x < 8) && b.getLsbD (7 - spriteCol px x)
        | none => false)) := by
  induction rows generalizing Y acc with
  | nil => simp [Screen.drawRows]
  | cons row rows ih =>
    simp only [List.length_cons] at hr
    simp only [Screen.drawRows]
    rw [ih (by omega)]
    have hcols := Screen.pixel_drawCols hp Y row (n := 8) (by omega) acc x y
    have hd : Screen.drawRow px Y row acc = Screen.drawCols px Y row 8 acc := rfl
    rw [hd, hcols]
    by_cases hy : y % 32 = Y % 32
    · have h0 : spriteRow Y y = 0 := by unfold spriteRow; omega
      have h1 : spriteRow (Y + 1) y = 31 := by unfold spriteRow; omega
      have h2 : rows[31]? = none := List.getElem?_eq_none (by omega)
      simp [hy, h0, h1, h2]
    · obtain ⟨k, hk⟩ : ∃ k, spriteRow Y y = k + 1 :=
        ⟨spriteRow Y y - 1, by unfold spriteRow; omega⟩
      have h1 : spriteRow (Y + 1) y = k := by unfold spriteRow at hk ⊢; omega
      simp [hy, hk, h1]

/-- The rows of a sprite: when they report a collision. -/
theorem Screen.collision_drawRows {px : Nat} (hp : px ≤ 256) {rows : List Byte}
    (hr : rows.length ≤ 32) (Y : Nat) (acc : Screen × Bool) :
    (Screen.drawRows px Y rows acc).2 = true ↔ acc.2 = true ∨
      ∃ r b, rows[r]? = some b ∧ ∃ c, c < 8 ∧ b.getLsbD (7 - c) = true ∧
        acc.1.pixel (px + c) (Y + r) = true := by
  induction rows generalizing Y acc with
  | nil => simp [Screen.drawRows]
  | cons row rows ih =>
    simp only [List.length_cons] at hr
    simp only [Screen.drawRows]
    have hd : Screen.drawRow px Y row acc = Screen.drawCols px Y row 8 acc := rfl
    rw [ih (by omega), hd, Screen.collision_drawCols hp Y row (by omega)]
    have hp' : ∀ r, r < rows.length → ∀ c,
        (Screen.drawCols px Y row 8 acc).1.pixel (px + c) (Y + 1 + r) =
          acc.1.pixel (px + c) (Y + (r + 1)) := by
      intro r hrl c
      rw [Screen.pixel_drawCols hp Y row (by omega)]
      have hne : ¬ (Y + (r + 1)) % 32 = Y % 32 := by omega
      simp [hne, show Y + 1 + r = Y + (r + 1) by omega]
    constructor
    · rintro (h | ⟨r, b, hb, c, hc, hbit, hpx⟩)
      · rw [Bool.or_eq_true, List.any_eq_true] at h
        rcases h with h | ⟨c, hc, h⟩
        · exact .inl h
        · rw [Bool.and_eq_true] at h
          exact .inr ⟨0, row, rfl, c, List.mem_range.mp hc, h.1, h.2⟩
      · obtain ⟨hrl, -⟩ := List.getElem?_eq_some_iff.mp hb
        rw [hp' r hrl c] at hpx
        exact .inr ⟨r + 1, b, by simpa using hb, c, hc, hbit, hpx⟩
    · rintro (h | ⟨r, b, hb, c, hc, hbit, hpx⟩)
      · left; simp [h]
      · cases r with
        | zero =>
          left
          rw [Bool.or_eq_true, List.any_eq_true]
          right
          simp only [List.getElem?_cons_zero, Option.some.injEq] at hb
          subst hb
          exact ⟨c, List.mem_range.mpr hc, by simpa [hbit] using hpx⟩
        | succ r =>
          right
          simp only [List.getElem?_cons_succ] at hb
          obtain ⟨hrl, -⟩ := List.getElem?_eq_some_iff.mp hb
          exact ⟨r, b, hb, c, hc, hbit, by rw [hp' r hrl c]; exact hpx⟩

/-- The sprite as a grid, in the terms of the lemmas above. -/
theorem spriteBit_eq (px py : Byte) (rows : List Byte) (x y : Nat) :
    spriteBit px py rows x y = (match rows[spriteRow py.toNat y]? with
      | some b => decide (spriteCol px.toNat x < 8) && b.getLsbD (7 - spriteCol px.toNat x)
      | none => false) := by
  have hpy := py.isLt
  have h : (y + 256 - py.toNat) % 32 = spriteRow py.toNat y := by unfold spriteRow; omega
  simp only [spriteBit, h]
  rfl

/-- What `DrawSprite` leaves at a pixel: the old pixel XOR the sprite's bit (R92). -/
theorem Screen.pixel_drawSprite (f : Screen) (px py : Byte) {rows : List Byte}
    (hr : rows.length ≤ 32) (x y : Nat) :
    (Screen.drawSprite f px py rows).1.pixel x y = (f.pixel x y ^^ spriteBit px py rows x y) := by
  have hpx := px.isLt
  rw [spriteBit_eq]
  exact Screen.pixel_drawRows (by omega) hr _ (f, false) x y

/-- `DrawSprite` reports a collision exactly when a set pixel lies under a sprite bit (R92). -/
theorem Screen.collision_drawSprite (f : Screen) (px py : Byte) {rows : List Byte}
    (hr : rows.length ≤ 32) :
    (Screen.drawSprite f px py rows).2 = true ↔
      ∃ x y, f.pixel x y = true ∧ spriteBit px py rows x y = true := by
  have hpx := px.isLt
  refine (Screen.collision_drawRows (show px.toNat ≤ 256 by omega) hr _ (f, false)).trans ?_
  simp only [Bool.false_eq_true, false_or]
  constructor
  · rintro ⟨r, b, hb, c, hc, hbit, hpix⟩
    refine ⟨px.toNat + c, py.toNat + r, hpix, ?_⟩
    obtain ⟨hrl, -⟩ := List.getElem?_eq_some_iff.mp hb
    have h1 : spriteRow py.toNat (py.toNat + r) = r := by unfold spriteRow; omega
    have h2 : spriteCol px.toNat (px.toNat + c) = c :=
      (spriteCol_eq (by omega) (by omega)).mpr rfl
    rw [spriteBit_eq, h1, hb, h2]
    simp [hc, hbit]
  · rintro ⟨x, y, hpix, hs⟩
    rw [spriteBit_eq] at hs
    cases hb : rows[spriteRow py.toNat y]? with
    | none => simp [hb] at hs
    | some b =>
      simp only [hb, Bool.and_eq_true, decide_eq_true_eq] at hs
      refine ⟨_, b, hb, _, hs.1, hs.2, ?_⟩
      rw [← hpix]
      exact Screen.pixel_mod f ((spriteCol_eq (by omega) (by omega)).mp rfl).symm
        (by unfold spriteRow; omega)

end Sys2Proof.Machine
end

