-- ==== Sys2Proof/Laws/PerInstr.lean ====
section
/-! SUPPORT. The per-instruction family TableRow: the word of an instruction is selected by a row of the
opcode table (spec/30_encoding.md R62, R64) and that row gives the instruction back. -/

namespace Sys2Proof.Laws

/-- A row of the opcode table selects the instruction's word and builds the instruction from it. -/
def TableRow.Statement (i : Instr) : Prop :=
  ∃ r ∈ opTable, r.selects (encode i) = true ∧ r.build (encode i) = i

/-- The row at index `k` of the table. -/
theorem TableRow.of_row {i : Instr} (k : Nat) {r : OpRow} (hk : opTable[k]? = some r)
    (h : r.selects (encode i) = true ∧ r.build (encode i) = i) : TableRow.Statement i :=
  ⟨r, List.mem_of_getElem? hk, h⟩

theorem TableRow.cls : TableRow.Statement (.cls) :=
  TableRow.of_row 0 rfl ⟨rfl, rfl⟩

theorem TableRow.ret : TableRow.Statement (.ret) :=
  TableRow.of_row 1 rfl ⟨rfl, rfl⟩

theorem TableRow.jp (nnn : Addr12) : TableRow.Statement (.jp nnn) :=
  TableRow.of_row 2 rfl (row_nnn 0x1 nnn _ _ rfl)

theorem TableRow.call (nnn : Addr12) : TableRow.Statement (.call nnn) :=
  TableRow.of_row 3 rfl (row_nnn 0x2 nnn _ _ rfl)

theorem TableRow.seImm (x : Nibble) (kk : Byte) : TableRow.Statement (.seImm x kk) :=
  TableRow.of_row 4 rfl (row_xkk 0x3 x kk _ _ rfl)

theorem TableRow.sneImm (x : Nibble) (kk : Byte) : TableRow.Statement (.sneImm x kk) :=
  TableRow.of_row 5 rfl (row_xkk 0x4 x kk _ _ rfl)

theorem TableRow.seReg (x : Nibble) (y : Nibble) : TableRow.Statement (.seReg x y) :=
  TableRow.of_row 6 rfl (row_xy 0x5 x y 0x0 _ _ rfl)

theorem TableRow.ldImm (x : Nibble) (kk : Byte) : TableRow.Statement (.ldImm x kk) :=
  TableRow.of_row 7 rfl (row_xkk 0x6 x kk _ _ rfl)

theorem TableRow.addImm (x : Nibble) (kk : Byte) : TableRow.Statement (.addImm x kk) :=
  TableRow.of_row 8 rfl (row_xkk 0x7 x kk _ _ rfl)

theorem TableRow.ldReg (x : Nibble) (y : Nibble) : TableRow.Statement (.ldReg x y) :=
  TableRow.of_row 9 rfl (row_xy 0x8 x y 0x0 _ _ rfl)

theorem TableRow.orReg (x : Nibble) (y : Nibble) : TableRow.Statement (.orReg x y) :=
  TableRow.of_row 10 rfl (row_xy 0x8 x y 0x1 _ _ rfl)

theorem TableRow.andReg (x : Nibble) (y : Nibble) : TableRow.Statement (.andReg x y) :=
  TableRow.of_row 11 rfl (row_xy 0x8 x y 0x2 _ _ rfl)

theorem TableRow.xorReg (x : Nibble) (y : Nibble) : TableRow.Statement (.xorReg x y) :=
  TableRow.of_row 12 rfl (row_xy 0x8 x y 0x3 _ _ rfl)

theorem TableRow.addReg (x : Nibble) (y : Nibble) : TableRow.Statement (.addReg x y) :=
  TableRow.of_row 13 rfl (row_xy 0x8 x y 0x4 _ _ rfl)

theorem TableRow.subReg (x : Nibble) (y : Nibble) : TableRow.Statement (.subReg x y) :=
  TableRow.of_row 14 rfl (row_xy 0x8 x y 0x5 _ _ rfl)

theorem TableRow.shr (x : Nibble) (y : Nibble) : TableRow.Statement (.shr x y) :=
  TableRow.of_row 15 rfl (row_xy 0x8 x y 0x6 _ _ rfl)

theorem TableRow.subnReg (x : Nibble) (y : Nibble) : TableRow.Statement (.subnReg x y) :=
  TableRow.of_row 16 rfl (row_xy 0x8 x y 0x7 _ _ rfl)

theorem TableRow.shl (x : Nibble) (y : Nibble) : TableRow.Statement (.shl x y) :=
  TableRow.of_row 17 rfl (row_xy 0x8 x y 0xE _ _ rfl)

theorem TableRow.sneReg (x : Nibble) (y : Nibble) : TableRow.Statement (.sneReg x y) :=
  TableRow.of_row 18 rfl (row_xy 0x9 x y 0x0 _ _ rfl)

theorem TableRow.ldI (nnn : Addr12) : TableRow.Statement (.ldI nnn) :=
  TableRow.of_row 19 rfl (row_nnn 0xA nnn _ _ rfl)

theorem TableRow.jpV0 (nnn : Addr12) : TableRow.Statement (.jpV0 nnn) :=
  TableRow.of_row 20 rfl (row_nnn 0xB nnn _ _ rfl)

theorem TableRow.rnd (x : Nibble) (kk : Byte) : TableRow.Statement (.rnd x kk) :=
  TableRow.of_row 21 rfl (row_xkk 0xC x kk _ _ rfl)

theorem TableRow.drw (x : Nibble) (y : Nibble) (n : Nibble) : TableRow.Statement (.drw x y n) :=
  TableRow.of_row 22 rfl (row_xyn 0xD x y n _ _ rfl)

theorem TableRow.skp (x : Nibble) : TableRow.Statement (.skp x) :=
  TableRow.of_row 23 rfl (row_x 0xE x 0x9E _ _ rfl)

theorem TableRow.sknp (x : Nibble) : TableRow.Statement (.sknp x) :=
  TableRow.of_row 24 rfl (row_x 0xE x 0xA1 _ _ rfl)

theorem TableRow.ldVxDt (x : Nibble) : TableRow.Statement (.ldVxDt x) :=
  TableRow.of_row 25 rfl (row_x 0xF x 0x07 _ _ rfl)

theorem TableRow.ldVxKey (x : Nibble) : TableRow.Statement (.ldVxKey x) :=
  TableRow.of_row 26 rfl (row_x 0xF x 0x0A _ _ rfl)

theorem TableRow.ldDtVx (x : Nibble) : TableRow.Statement (.ldDtVx x) :=
  TableRow.of_row 27 rfl (row_x 0xF x 0x15 _ _ rfl)

theorem TableRow.ldStVx (x : Nibble) : TableRow.Statement (.ldStVx x) :=
  TableRow.of_row 28 rfl (row_x 0xF x 0x18 _ _ rfl)

theorem TableRow.addI (x : Nibble) : TableRow.Statement (.addI x) :=
  TableRow.of_row 29 rfl (row_x 0xF x 0x1E _ _ rfl)

theorem TableRow.ldGlyph (x : Nibble) : TableRow.Statement (.ldGlyph x) :=
  TableRow.of_row 30 rfl (row_x 0xF x 0x29 _ _ rfl)

theorem TableRow.ldBcd (x : Nibble) : TableRow.Statement (.ldBcd x) :=
  TableRow.of_row 31 rfl (row_x 0xF x 0x33 _ _ rfl)

theorem TableRow.storeRegs (x : Nibble) : TableRow.Statement (.storeRegs x) :=
  TableRow.of_row 32 rfl (row_x 0xF x 0x55 _ _ rfl)

theorem TableRow.loadRegs (x : Nibble) : TableRow.Statement (.loadRegs x) :=
  TableRow.of_row 33 rfl (row_x 0xF x 0x65 _ _ rfl)

end Sys2Proof.Laws
end

