-- ==== Sys2Proof/Laws/Step.lean ====
section
/-! SUPPORT. What a step can do: an instruction always answers a next state, a Step of the core either
raises in the fetch or runs the word at PC, and a move is a turn of the core or of the host. -/

namespace Sys2Proof.Machine

/-- Every instruction answers a next state, in every state: a fault is a state (60_exceptions.md R167). -/
theorem exec_total (i : Instr) (s : State) : ∃ t, exec i s = .next t := by
  cases i with
  | ret =>
    simp only [exec, execRet]
    cases s.pop <;> exact ⟨_, rfl⟩
  | call nnn =>
    simp only [exec, execCall]
    cases s.push s.pc <;> exact ⟨_, rfl⟩
  | drw x y n =>
    simp only [exec, execDrw]
    cases s.readBytes (s.effAddr 0) n.toNat <;> exact ⟨_, rfl⟩
  | skp x =>
    simp only [exec, execSkp]
    cases s.keyOperand x <;> exact ⟨_, rfl⟩
  | sknp x =>
    simp only [exec, execSknp]
    cases s.keyOperand x <;> exact ⟨_, rfl⟩
  | _ => exact ⟨_, rfl⟩

/-- Every word answers a next state. -/
theorem execWord_total (w : Word) (s : State) : ∃ t, execWord w s = .next t := by
  unfold execWord
  cases decode w with
  | instr i => exact exec_total i s
  | undefined u => exact ⟨s, rfl⟩

/-- A Step of the core, case by case: the fetch succeeds, or raises at 4096, or raises at PC
(40_step_cycle.md R81). -/
theorem coreStep_cases (s : State) :
    (s.pc.toNat ≤ 4094 ∧ coreStep s = execWord s.wordAtPc s.closeLoad.advancePc) ∨
    (s.pc.toNat = 4095 ∧ coreStep s = .next (s.closeLoad.raise .memOutOfBounds 4096)) ∨
    (4096 ≤ s.pc.toNat ∧ coreStep s = .next (s.closeLoad.raise .memOutOfBounds s.pc.toNat)) := by
  rcases State.memReadWord_cases s.closeLoad s.pc.toNat with ⟨h, e⟩ | ⟨h, e⟩ | ⟨h, e⟩
  · refine .inl ⟨h, ?_⟩
    simp only [coreStep, State.fetch, State.closeLoad_pc, e]
    rfl
  · refine .inr (.inl ⟨h, ?_⟩)
    simp only [coreStep, State.fetch, State.closeLoad_pc, e]
  · refine .inr (.inr ⟨h, ?_⟩)
    simp only [coreStep, State.fetch, State.closeLoad_pc, e]

/-- A Step of the core answers a next state. -/
theorem coreStep_total (s : State) : ∃ t, coreStep s = .next t := by
  rcases coreStep_cases s with ⟨-, e⟩ | ⟨-, e⟩ | ⟨-, e⟩
  · rw [e]; exact execWord_total _ _
  · exact ⟨_, e⟩
  · exact ⟨_, e⟩

/-! ### Whose turn it is -/

/-- The next turn is planned. -/
theorem State.nextTurn_of_cons {s : State} {t : Turn} {ts : List Turn} (h : s.schedule = t :: ts) :
    s.nextTurn = t := by
  simp [State.nextTurn, h]

/-- No turn is planned: the environment's. -/
theorem State.nextTurn_of_nil {s : State} (h : s.schedule = []) : s.nextTurn = s.environment.turn := by
  simp [State.nextTurn, h]

theorem State.endTurn_environment_of_cons {s : State} {t : Turn} {ts : List Turn}
    (h : s.schedule = t :: ts) : s.endTurn.environment = s.environment := by
  simp [State.endTurn, h]

theorem State.endTurn_environment_of_nil {s : State} (h : s.schedule = []) :
    s.endTurn.environment = s.environment.next := by
  simp [State.endTurn, h]

theorem State.planEnded_iff (s : State) :
    s.planEnded = true ↔ s.schedule = [] ∧ s.environment = .quiet := by
  simp [State.planEnded]

/-- With no host move left, the next turn is the core's and there is none to take away. -/
theorem State.planEnded_spec {s : State} (h : s.planEnded = true) :
    s.nextTurn = .core ∧ s.endTurn = s := by
  obtain ⟨hs, he⟩ := s.planEnded_iff.mp h
  cases s
  simp only at hs he
  subst hs he
  exact ⟨rfl, rfl⟩

theorem State.coreNext_iff (s : State) : s.coreNext = true ↔ s.nextTurn = .core := by
  unfold State.coreNext
  cases s.nextTurn <;> simp

/-- A move is the next turn, but for the final stop in FAULT (40_step_cycle.md R80, R84). -/
theorem step_eq (s : State) (h : ¬(s.mode = .fault ∧ s.planEnded = true)) :
    step s = takeTurn s.nextTurn s.endTurn := by
  unfold step
  split
  · next hp =>
    obtain ⟨hn, he⟩ := State.planEnded_spec hp
    rw [hn, he]
    cases hm : s.mode with
    | run => simp only [coreAlone, hm, takeTurn]
    | waitKey => simp only [coreAlone, hm, takeTurn]
    | fault => exact absurd ⟨hm, hp⟩ h
  · rfl

/-- A move, case by case (40_step_cycle.md R80, R84): a Step of the core; a turn of the core that
passes or idles because MODE is not RUN; the final stop in FAULT; or a move of the host. -/
theorem step_cases (s : State) :
    (s.aboutToStep ∧ step s = coreStep s.endTurn) ∨
    (s.coreNext = true ∧ s.mode ≠ .run ∧ ¬(s.mode = .fault ∧ s.planEnded = true) ∧
      step s = .next s.endTurn) ∨
    (s.mode = .fault ∧ s.planEnded = true ∧ step s = .fault (.halted s.cause s.finfo)) ∨
    (∃ e, s.hostNext e ∧ step s = hostMove e s.endTurn) := by
  by_cases hf : s.mode = .fault ∧ s.planEnded = true
  · exact .inr (.inr (.inl ⟨hf.1, hf.2, by simp only [step, hf.2, if_true, coreAlone, hf.1]⟩))
  · rw [step_eq s hf]
    cases ht : s.nextTurn with
    | host e => exact .inr (.inr (.inr ⟨e, ht, rfl⟩))
    | core =>
      have hc := s.coreNext_iff.mpr ht
      have he : s.endTurn.mode = s.mode := rfl
      cases hm : s.mode with
      | run => exact .inl ⟨⟨hc, hm⟩, by simp only [takeTurn, coreTurn, he, hm]⟩
      | waitKey =>
        exact .inr (.inl ⟨hc, by simp, by simp, by simp only [takeTurn, coreTurn, he, hm]⟩)
      | fault =>
        rw [hm] at hf
        exact .inr (.inl ⟨hc, by simp, hf, by simp only [takeTurn, coreTurn, he, hm]⟩)

/-- On the core's turn in RUN, a move is a Step (40_step_cycle.md R81). -/
theorem step_run {s : State} (h : s.aboutToStep) : step s = coreStep s.endTurn := by
  have ht := s.coreNext_iff.mp h.1
  rw [step_eq s (by simp [h.2]), ht]
  simp only [takeTurn, coreTurn, State.endTurn_mode, h.2]

/-- On a turn of the host, a move is the host's (40_step_cycle.md R80). -/
theorem step_host {s : State} {e : HostEvent} (h : s.hostNext e) : step s = hostMove e s.endTurn := by
  have hp : s.planEnded ≠ true := by
    intro hp
    have hc := (State.planEnded_spec hp).1
    rw [show s.nextTurn = .host e from h] at hc
    cases hc
  rw [step_eq s (fun hf => hp hf.2), show s.nextTurn = .host e from h]
  rfl

/-- One move more of a run, where the first answers a next state. -/
theorem core_run_succ (n : Nat) {s t : State} (h : step s = .next t) :
    Sys2Proof.core.run (n + 1) s = Sys2Proof.core.run n t := by
  have hc : Sys2Proof.core.step s = .next t := h
  simp only [Host.Core.run, hc]

/-! ### The host's moves -/

/-- An image changes memory and nothing else. -/
theorem State.putBytes_frame (s : State) (a : Nat) (bs : List Byte) :
    SameExcept [.mem] s (s.putBytes a bs) := by
  induction bs generalizing s a with
  | nil => exact SameExcept.refl _ _
  | cons b bs ih => exact (s.putByte_frame a b).trans (ih _ _)

/-- LOAD, case by case: an image that fits is stored and PC set, one that does not changes nothing
(70_reset_and_hazards.md R193, R194). -/
theorem State.loadEvent_cases (s : State) (rom : List Byte) :
    (rom.length + 512 < 4096 ∧ s.loadEvent rom = (s.putBytes 512 rom).setPc 512) ∨
    (4096 ≤ rom.length + 512 ∧ s.loadEvent rom = s) := by
  by_cases h : 512 + rom.length < 4096
  · have hf : romFits rom = true := decide_eq_true h
    exact .inl ⟨by omega, if_pos hf⟩
  · have hf : ¬ romFits rom = true := fun hf => h (of_decide_eq_true hf)
    exact .inr ⟨by omega, if_neg hf⟩

/-- LOAD changes memory and PC and nothing else. -/
theorem State.loadEvent_frame (s : State) (rom : List Byte) :
    SameExcept [.mem, .pc] s (s.loadEvent rom) := by
  rcases s.loadEvent_cases rom with ⟨-, e⟩ | ⟨-, e⟩
  · rw [e]
    exact ((s.putBytes_frame 512 rom).mono (by simp)).trans ((State.setPc_frame _ _).mono (by simp))
  · rw [e]
    exact SameExcept.refl _ _

/-- A move of the host, where it answers a next state. -/
theorem hostMove_cases {e : HostEvent} {s t : State} (h : hostMove e s = .next t) :
    (e = .reset ∧ t = s.resetEvent) ∨
    (∃ rom, e = .load rom ∧ s.loadAdmitted = true ∧ t = s.loadEvent rom) ∨
    (e = .tick ∧ t = s.tick) ∨
    (∃ k, e = .keyDown k ∧ t = s.keyDown k) ∨ (∃ k, e = .keyUp k ∧ t = s.keyUp k) ∨
    (e = .snapshot ∧ t = s) := by
  cases e with
  | reset => cases h; simp
  | load rom =>
    simp only [hostMove] at h
    cases ha : s.loadAdmitted with
    | false => simp [ha] at h
    | true =>
      rw [ha, if_pos rfl] at h
      exact .inr (.inl ⟨rom, rfl, rfl, (Host.Outcome.next.inj h).symm⟩)
  | tick => cases h; simp
  | keyDown k => cases h; simp
  | keyUp k => cases h; simp
  | snapshot => cases h; simp

end Sys2Proof.Machine
end

