-- ==== Sys2Proof/Tests/Slice0.lean ====
section
/-! SUPPORT. The model's own tests. Expected values come from the spec: the encodings of
spec/30_encoding.md R64 and the vectors of spec/95_test_vectors.md, named by their ids. The witnesses at
the end show, for every statement with hypotheses, a state and operands that meet them. -/

namespace Sys2Proof.Tests

open Sys2Proof Sys2Proof.Machine

/-! ### Helpers -/

/-- The fresh state of 95_test_vectors.md with PC at 0x200. -/
def fresh : State := State.reset.setPc 0x200

/-- One step of a single-instruction vector: the word at 0x200, the registers set by `f`. -/
def run1 (f : State → State) (w : Nat) : Host.Outcome State Fault Refusal :=
  step ((f fresh).withFetchWord 16 w)

/-- The outcome is a next state of which `p` holds. -/
def nextIs (o : Host.Outcome State Fault Refusal) (p : State → Bool) : Bool :=
  match o with
  | .next s => p s
  | .fault _ => false
  | .refused _ => false

/-- The outcome is this refusal. -/
def refusedIs (o : Host.Outcome State Fault Refusal) (r : Refusal) : Bool :=
  match o with
  | .next _ => false
  | .fault _ => false
  | .refused q => q == r

/-- A fault record with PC where the faulting instruction left it. -/
def faultIs (c : Cause) (info : Nat) (pc : Word) (s : State) : Bool :=
  s.mode == .fault && s.cause == c && s.finfo.toNat == info && s.pc == pc

/-! ### Well-formedness: each check refuses an ill-formed term -/

/-- The image of T-H5. -/
def imageTooLarge : List Byte := List.replicate 3584 1

/-- The image of T-H4, the largest that fits. -/
def imageThatFits : List Byte := List.replicate 3583 1

theorem test_romFits_refuses : romFits imageTooLarge = false := by
  rw [romFits, imageTooLarge, List.length_replicate]
  decide
theorem test_romFits_accepts : romFits imageThatFits = true := by
  rw [romFits, imageThatFits, List.length_replicate]
  decide
theorem test_memWf_refuses_falling_addresses :
    Memory.wf (resetByte Config.defaultFont) [(0x301, 1), (0x300, 1)] = false := by decide
theorem test_memWf_refuses_reset_contents :
    Memory.wf (resetByte Config.defaultFont) [(0, 0xF0)] = false := by decide
theorem test_memWf_refuses_address_4096 :
    Memory.wf (resetByte Config.defaultFont) [(4096, 1)] = false := by decide
theorem test_memWf_accepts :
    Memory.wf (resetByte Config.defaultFont) [(0x300, 1), (4095, 1)] = true := by decide
/-- R67: no field value makes a defined instruction undefined. -/
theorem test_instr_wellFormed : (Instr.drw 15 15 15).wellFormed = true := by decide
theorem test_set_reset_contents_removes_the_cell :
    Memory.set (resetByte Config.defaultFont) [(0x300, 1)] 0x300 0 = [] := by decide

/-! ### Decoding: one word per row of R64, written out from its pattern -/

theorem test_decode_cls : decode 0x00E0 = .instr .cls := by decide
theorem test_decode_ret : decode 0x00EE = .instr .ret := by decide
theorem test_decode_jp : decode 0x1FFF = .instr (.jp 0xFFF) := by decide
theorem test_decode_call : decode 0x2ABC = .instr (.call 0xABC) := by decide
theorem test_decode_seImm : decode 0x3A7F = .instr (.seImm 0xA 0x7F) := by decide
theorem test_decode_sneImm : decode 0x4A7F = .instr (.sneImm 0xA 0x7F) := by decide
theorem test_decode_seReg : decode 0x5120 = .instr (.seReg 1 2) := by decide
theorem test_decode_ldImm : decode 0x6A7F = .instr (.ldImm 0xA 0x7F) := by decide
theorem test_decode_addImm : decode 0x7A01 = .instr (.addImm 0xA 0x01) := by decide
theorem test_decode_ldReg : decode 0x8120 = .instr (.ldReg 1 2) := by decide
theorem test_decode_orReg : decode 0x8121 = .instr (.orReg 1 2) := by decide
theorem test_decode_andReg : decode 0x8122 = .instr (.andReg 1 2) := by decide
theorem test_decode_xorReg : decode 0x8123 = .instr (.xorReg 1 2) := by decide
theorem test_decode_addReg : decode 0x8124 = .instr (.addReg 1 2) := by decide
theorem test_decode_subReg : decode 0x8F15 = .instr (.subReg 0xF 1) := by decide
theorem test_decode_shr : decode 0x8126 = .instr (.shr 1 2) := by decide
theorem test_decode_subnReg : decode 0x8127 = .instr (.subnReg 1 2) := by decide
theorem test_decode_shl : decode 0x812E = .instr (.shl 1 2) := by decide
theorem test_decode_sneReg : decode 0x9120 = .instr (.sneReg 1 2) := by decide
theorem test_decode_ldI : decode 0xA123 = .instr (.ldI 0x123) := by decide
theorem test_decode_jpV0 : decode 0xB300 = .instr (.jpV0 0x300) := by decide
theorem test_decode_rnd : decode 0xC10F = .instr (.rnd 1 0x0F) := by decide
theorem test_decode_drw : decode 0xD125 = .instr (.drw 1 2 5) := by decide
theorem test_decode_skp : decode 0xE19E = .instr (.skp 1) := by decide
theorem test_decode_sknp : decode 0xE1A1 = .instr (.sknp 1) := by decide
theorem test_decode_ldVxDt : decode 0xF207 = .instr (.ldVxDt 2) := by decide
theorem test_decode_ldVxKey : decode 0xF10A = .instr (.ldVxKey 1) := by decide
theorem test_decode_ldDtVx : decode 0xF015 = .instr (.ldDtVx 0) := by decide
theorem test_decode_ldStVx : decode 0xF418 = .instr (.ldStVx 4) := by decide
theorem test_decode_addI : decode 0xF01E = .instr (.addI 0) := by decide
theorem test_decode_ldGlyph : decode 0xF329 = .instr (.ldGlyph 3) := by decide
theorem test_decode_ldBcd : decode 0xF033 = .instr (.ldBcd 0) := by decide
theorem test_decode_storeRegs : decode 0xF255 = .instr (.storeRegs 2) := by decide
theorem test_decode_loadRegs : decode 0xFF65 = .instr (.loadRegs 15) := by decide

/-- T-S3 to T-S6: undefined words. -/
theorem test_decode_undefined :
    ([0x0000, 0x5121, 0x8128, 0x812F, 0x00E1, 0x00FF, 0x0123, 0xE09F, 0xF000, 0xF166] : List Word).all
      (fun w => decode w == .undefined w) = true := by decide

theorem test_decodeTableWord : decodeTableWord 16 0xD125 = some (.drw 1 2 5) := by decide
theorem test_decodeTableWord_undefined : decodeTableWord 16 0x5121 = none := by decide
/-- R43: the high byte comes first. -/
theorem test_decodeBytes :
    decodeBytes [0x6A, 0x7F, 0x00] = .ok (.instr (.ldImm 0xA 0x7F), [0x00]) := by rfl
/-- R60: one byte holds no word. -/
theorem test_decodeBytes_truncated : decodeBytes [0x6A] = .error (.tooFewBytes 1) := by rfl
theorem test_encodeBytes : encodeBytes (.call 0xABC) = [0x2A, 0xBC] := by decide
/-- The first instruction after reset is the one placed. -/
theorem test_withFetchWord_from_reset :
    nextIs (step (State.reset.withFetchWord 16 0x6A7F))
      (fun s => s.readV 10 == 0x7F && s.pc == 2) = true := by decide

/-! ### The step cycle -/

/-- T-S1. -/
theorem test_fetch_is_big_endian :
    nextIs (step ((fresh.putByte 0x200 0x6A).putByte 0x201 0x7F))
      (fun s => s.readV 10 == 0x7F && s.pc == 0x202) = true := by decide
/-- T-S2. -/
theorem test_fetch_at_an_odd_address :
    nextIs (step (((fresh.setPc 0x201).putByte 0x201 0x61).putByte 0x202 0x23))
      (fun s => s.readV 1 == 0x23 && s.pc == 0x203) = true := by decide
/-- T-S4. -/
theorem test_undefined_word_is_a_no_op :
    nextIs (run1 (fun s => (s.writeV 1 3).writeV 2 3) 0x5121)
      (fun s => s.pc == 0x202 && s.mode == .run) = true := by decide
/-- T-S7. -/
theorem test_fetch_at_4094 :
    nextIs (step (fresh.setPc 4094)) (fun s => s.pc == 4096 && s.mode == .run) = true := by decide
/-- T-S8. -/
theorem test_fetch_at_4095 :
    nextIs (step (fresh.setPc 4095)) (faultIs .memOutOfBounds 4096 4095) = true := by decide
/-- T-C8, second step. -/
theorem test_fetch_far_above :
    nextIs (step (fresh.setPc 0x10FE)) (faultIs .memOutOfBounds 4350 0x10FE) = true := by decide
/-- T-S9, with no further move planned. -/
theorem test_fault_is_final :
    step (fresh.raise .stackUnderflow 0) = .fault (.halted .stackUnderflow 0) := by rfl
/-- T-S9: the core's turn passes, and the host's next move is still accepted. -/
theorem test_fault_passes_the_core :
    step { fresh.raise .stackUnderflow 0 with schedule := [.core, .host .tick] } =
      .next { fresh.raise .stackUnderflow 0 with schedule := [.host .tick] } := by rfl

/-- R80: a planned TICK is taken in a free environment as in any other. -/
theorem test_planned_tick :
    nextIs (step { fresh.setDt 5 with schedule := [.host .tick], environment := .free 0 })
      (fun s => s.dt == 4 && s.pc == 0x200 && s.environment == .free 0) = true := by decide
/-- U9: in a free environment the wait stays open to a later KEY_DOWN, which is the free turn's to make. -/
theorem test_free_turns_go_on :
    step { fresh.awaitKey 1 with environment := .free 0 } =
      takeTurn (Config.freeTurn 0) { fresh.awaitKey 1 with environment := .free 1 } := by rfl

/-! ### Display -/

/-- T-D1. -/
theorem test_cls :
    nextIs (run1 (fun s => (s.setFb ((s.fb.flip 3 3).flip 63 31)).writeV 15 7) 0x00E0)
      (fun s => !s.fb.pixel 3 3 && !s.fb.pixel 63 31 && s.readV 15 == 7) = true := by decide
/-- T-D2, on the pixels at the edges and those just outside. -/
theorem test_drw_wraps :
    nextIs (run1 (fun s => (((((s.writeV 0 62).writeV 1 31).writeV 15 7).setI 0x300).putByte 0x300
      0xFF).putByte 0x301 0x81) 0xD012)
      (fun s => s.fb.pixel 62 31 && s.fb.pixel 63 31 && s.fb.pixel 0 31 && s.fb.pixel 5 31 &&
        !s.fb.pixel 61 31 && !s.fb.pixel 6 31 && s.fb.pixel 62 0 && s.fb.pixel 5 0 &&
        !s.fb.pixel 63 0 && !s.fb.pixel 4 0 && s.readV 15 == 0) = true := by decide
/-- T-D6. -/
theorem test_drw_out_of_range :
    nextIs (run1 (fun s => (((s.setI 0xFFE).putByte 0xFFE 0xFF).putByte 0xFFF 0xFF).writeV 15 9)
      0xD013)
      (fun s => faultIs .memOutOfBounds 4096 0x202 s && !s.fb.pixel 0 0 && s.readV 15 == 9) =
      true := by decide
/-- T-D5: one pixel set, one collided. -/
theorem test_drawSprite_collides :
    (fun r : Screen × Bool => r.1.pixel 0 0 && !r.1.pixel 1 0 && r.2)
      ((Screen.clear.flip 1 0).drawSprite 0 0 [0xC0]) = true := by decide
/-- T-D4: coordinates are taken modulo 64 and 32. -/
theorem test_drawSprite_reduces_coordinates :
    (fun r : Screen × Bool => r.1.pixel 60 0 && r.1.pixel 3 0 && !r.1.pixel 4 0 && !r.2)
      (Screen.clear.drawSprite 124 32 [0xFF]) = true := by decide

/-! ### Control flow -/

/-- T-C10. -/
theorem test_ret :
    nextIs (run1 (fun s => ((s.setSp 2).setSlot 0 0x111).setSlot 1 0x345) 0x00EE)
      (fun s => s.sp == 1 && s.pc == 0x345 && s.slot 1 == 0x345) = true := by decide
/-- T-C11. -/
theorem test_ret_empty :
    nextIs (run1 id 0x00EE)
      (fun s => faultIs .stackUnderflow 0 0x202 s && s.sp == 0xFF) = true := by decide
/-- T-C1. -/
theorem test_jp : nextIs (run1 id 0x1FFF) (fun s => s.pc == 0x0FFF) = true := by decide
/-- T-C2. -/
theorem test_call :
    nextIs (run1 id 0x2ABC)
      (fun s => s.slot 0 == 0x202 && s.sp == 1 && s.pc == 0xABC) = true := by decide
/-- T-C12. -/
theorem test_call_full :
    nextIs (run1 (fun s => s.setSp 16) 0x2ABC)
      (fun s => faultIs .stackOverflow 0 0x202 s && s.sp == 16) = true := by decide
/-- T-C3. -/
theorem test_seImm_equal :
    nextIs (run1 (fun s => s.writeV 10 0x7F) 0x3A7F) (fun s => s.pc == 0x204) = true := by decide
theorem test_seImm_unequal :
    nextIs (run1 (fun s => s.writeV 10 0x7E) 0x3A7F) (fun s => s.pc == 0x202) = true := by decide
/-- T-C4. -/
theorem test_sneImm_equal :
    nextIs (run1 (fun s => s.writeV 10 0x7F) 0x4A7F) (fun s => s.pc == 0x202) = true := by decide
theorem test_sneImm_unequal :
    nextIs (run1 (fun s => s.writeV 10 0x7E) 0x4A7F) (fun s => s.pc == 0x204) = true := by decide
/-- T-C5. -/
theorem test_seReg_equal :
    nextIs (run1 (fun s => (s.writeV 1 3).writeV 2 3) 0x5120) (fun s => s.pc == 0x204) = true := by
  decide
theorem test_seReg_unequal :
    nextIs (run1 (fun s => (s.writeV 1 3).writeV 2 4) 0x5120) (fun s => s.pc == 0x202) = true := by
  decide
/-- T-C6. -/
theorem test_sneReg_equal :
    nextIs (run1 (fun s => (s.writeV 1 3).writeV 2 3) 0x9120) (fun s => s.pc == 0x202) = true := by
  decide
theorem test_sneReg_unequal :
    nextIs (run1 (fun s => (s.writeV 1 3).writeV 2 4) 0x9120) (fun s => s.pc == 0x204) = true := by
  decide
/-- T-C7. -/
theorem test_jpV0 :
    nextIs (run1 (fun s => s.writeV 0 0x10) 0xB300) (fun s => s.pc == 0x310) = true := by decide
/-- T-C8, first step. -/
theorem test_jpV0_above_memory :
    nextIs (run1 (fun s => s.writeV 0 0xFF) 0xBFFF)
      (fun s => s.pc == 0x10FE && s.mode == .run) = true := by decide

/-! ### Load and arithmetic -/

/-- T-A1. -/
theorem test_ldImm : nextIs (run1 id 0x6A7F) (fun s => s.readV 10 == 0x7F) = true := by decide
/-- T-A2. -/
theorem test_ldImm_vf : nextIs (run1 id 0x6F01) (fun s => s.readV 15 == 1) = true := by decide
/-- T-A3. -/
theorem test_addImm_wraps :
    nextIs (run1 (fun s => (s.writeV 10 255).writeV 15 9) 0x7A01)
      (fun s => s.readV 10 == 0 && s.readV 15 == 9) = true := by decide
/-- T-A4. -/
theorem test_addImm_vf :
    nextIs (run1 (fun s => s.writeV 15 1) 0x7F05) (fun s => s.readV 15 == 6) = true := by decide
/-- T-A5. -/
theorem test_ldReg :
    nextIs (run1 (fun s => (s.writeV 1 1).writeV 2 0x5A) 0x8120)
      (fun s => s.readV 1 == 0x5A) = true := by decide
/-- T-A6. -/
theorem test_orReg :
    nextIs (run1 (fun s => ((s.writeV 1 0xF0).writeV 2 0x0F).writeV 15 9) 0x8121)
      (fun s => s.readV 1 == 0xFF && s.readV 15 == 9) = true := by decide
/-- T-A7. -/
theorem test_andReg :
    nextIs (run1 (fun s => ((s.writeV 1 0xF0).writeV 2 0x3C).writeV 15 9) 0x8122)
      (fun s => s.readV 1 == 0x30 && s.readV 15 == 9) = true := by decide
/-- T-A8. -/
theorem test_xorReg :
    nextIs (run1 (fun s => ((s.writeV 1 0xF0).writeV 2 0x3C).writeV 15 9) 0x8123)
      (fun s => s.readV 1 == 0xCC && s.readV 15 == 9) = true := by decide
/-- T-A12: the destination is VF. -/
theorem test_addReg_vf_destination :
    nextIs (run1 (fun s => (s.writeV 15 200).writeV 1 100) 0x8F14)
      (fun s => s.readV 15 == 44 && s.readV 1 == 100) = true := by decide
/-- T-A13: the source is VF. -/
theorem test_addReg_vf_source :
    nextIs (run1 (fun s => (s.writeV 1 250).writeV 15 10) 0x81F4)
      (fun s => s.readV 1 == 4 && s.readV 15 == 1) = true := by decide
/-- T-A17. -/
theorem test_subReg_vf_destination :
    nextIs (run1 (fun s => (s.writeV 15 10).writeV 1 3) 0x8F15)
      (fun s => s.readV 15 == 254) = true := by decide
/-- T-A18. -/
theorem test_subReg_vf_source :
    nextIs (run1 (fun s => (s.writeV 1 10).writeV 15 3) 0x81F5)
      (fun s => s.readV 1 == 9 && s.readV 15 == 1) = true := by decide
/-- T-A20: y is ignored. -/
theorem test_shr :
    nextIs (run1 (fun s => (s.writeV 1 5).writeV 2 0xFF) 0x8126)
      (fun s => s.readV 1 == 2 && s.readV 15 == 1 && s.readV 2 == 0xFF) = true := by decide
/-- T-A22. -/
theorem test_shr_vf :
    nextIs (run1 (fun s => s.writeV 15 3) 0x8F26) (fun s => s.readV 15 == 0) = true := by decide
/-- T-A25. -/
theorem test_subnReg_vf_destination :
    nextIs (run1 (fun s => (s.writeV 15 3).writeV 1 10) 0x8F17)
      (fun s => s.readV 15 == 9) = true := by decide
/-- T-A26. -/
theorem test_subnReg_vf_source :
    nextIs (run1 (fun s => (s.writeV 1 3).writeV 15 10) 0x81F7)
      (fun s => s.readV 1 == 254 && s.readV 15 == 1) = true := by decide
/-- T-A27: y is ignored. -/
theorem test_shl :
    nextIs (run1 (fun s => (s.writeV 1 0x81).writeV 2 0xFF) 0x812E)
      (fun s => s.readV 1 == 0x02 && s.readV 15 == 1 && s.readV 2 == 0xFF) = true := by decide
/-- T-A29. -/
theorem test_shl_vf :
    nextIs (run1 (fun s => s.writeV 15 0x81) 0x8F2E) (fun s => s.readV 15 == 2) = true := by decide
/-- T-A30, the draw supplied by the environment. -/
theorem test_rnd :
    nextIs (run1 (fun s => { s with draws := [0xA7, 0x11] }) 0xC10F)
      (fun s => s.readV 1 == 0x07 && s.draws == [0x11]) = true := by decide
/-- T-A32. -/
theorem test_rnd_vf :
    nextIs (run1 (fun s => { s with draws := [0x5C] }) 0xCFFF)
      (fun s => s.readV 15 == 0x5C) = true := by decide

/-- E3 and T-A9: strictly greater than 255. -/
theorem test_carryOut : carryOut 250 10 = true ∧ carryOut 200 55 = false := by decide
/-- T-A16: equal is not greater. -/
theorem test_strictlyGreater : strictlyGreater 7 7 = false ∧ strictlyGreater 10 5 = true := by decide

/-! ### Index and memory -/

/-- T-M1. -/
theorem test_ldI : nextIs (run1 id 0xA123) (fun s => s.i == 0x123) = true := by decide
/-- T-M2. -/
theorem test_addI_wraps :
    nextIs (run1 (fun s => ((s.setI 0xFFFF).writeV 0 2).writeV 15 5) 0xF01E)
      (fun s => s.i == 0x0001 && s.readV 15 == 5) = true := by decide
/-- T-M3. -/
theorem test_addI_above_memory :
    nextIs (run1 (fun s => (s.setI 0xFFE).writeV 0 5) 0xF01E)
      (fun s => s.i == 0x1003 && s.mode == .run) = true := by decide
/-- T-M4. -/
theorem test_ldGlyph :
    nextIs (run1 (fun s => s.writeV 3 0x0A) 0xF329) (fun s => s.i == 0x32) = true := by decide
theorem test_ldGlyph_whole_byte :
    nextIs (run1 (fun s => s.writeV 3 0xFF) 0xF329) (fun s => s.i == 0x4FB) = true := by decide
/-- E7. -/
theorem test_ldBcd :
    nextIs (run1 (fun s => (s.writeV 0 157).setI 0x300) 0xF033)
      (fun s => s.byteAt 0x300 == 1 && s.byteAt 0x301 == 5 && s.byteAt 0x302 == 7 &&
        s.i == 0x300) = true := by decide
/-- T-M6. -/
theorem test_ldBcd_out_of_range :
    nextIs (run1 (fun s => (s.writeV 0 157).setI 4094) 0xF033)
      (fun s => faultIs .memOutOfBounds 4096 0x202 s && s.byteAt 4094 == 1 && s.byteAt 4095 == 5) =
      true := by decide
/-- T-M7. -/
theorem test_storeRegs :
    nextIs (run1 (fun s => (((s.writeV 0 0xAA).writeV 1 0x55).writeV 2 0xFF).setI 0x400) 0xF255)
      (fun s => s.byteAt 0x400 == 0xAA && s.byteAt 0x401 == 0x55 && s.byteAt 0x402 == 0xFF &&
        s.byteAt 0x403 == 0 && s.i == 0x400) = true := by decide
/-- T-M12: the first access fails, addresses do not wrap. -/
theorem test_storeRegs_out_of_range :
    nextIs (run1 (fun s => s.setI 0xFFFF) 0xF055) (faultIs .memOutOfBounds 65535 0x202) = true := by
  decide
/-- T-M9, on its first and last register. -/
theorem test_loadRegs :
    nextIs (run1 (fun s => ((s.setI 0x300).putByte 0x300 1).putByte 0x30F 16) 0xFF65)
      (fun s => s.readV 0 == 1 && s.readV 15 == 16 && s.i == 0x300) = true := by decide
/-- T-M10. -/
theorem test_loadRegs_out_of_range :
    nextIs (run1 (fun s => ((s.setI 4095).putByte 4095 0x77).writeV 1 0x11) 0xF165)
      (fun s => faultIs .memOutOfBounds 4096 0x202 s && s.readV 0 == 0x77 && s.readV 1 == 0x11) =
      true := by decide

/-! ### Keys and timers -/

/-- T-K1. -/
theorem test_skp_down :
    nextIs (run1 (fun s => (s.writeV 1 7).writeKey 7 true) 0xE19E)
      (fun s => s.pc == 0x204) = true := by decide
/-- T-K3. -/
theorem test_skp_above_fifteen :
    nextIs (run1 (fun s => s.writeV 0 16) 0xE09E) (faultIs .keyIndexOutOfRange 16 0x202) = true := by
  decide
/-- T-K2. -/
theorem test_sknp_down :
    nextIs (run1 (fun s => (s.writeV 1 7).writeKey 7 true) 0xE1A1)
      (fun s => s.pc == 0x202) = true := by decide
/-- T-K4. -/
theorem test_sknp_above_fifteen :
    nextIs (run1 (fun s => s.writeV 0 255) 0xE0A1) (faultIs .keyIndexOutOfRange 255 0x202) = true := by
  decide
/-- T-K5: a held key does not end the wait. -/
theorem test_ldVxKey :
    nextIs (run1 (fun s => s.writeKey 3 true) 0xF10A)
      (fun s => s.mode == .waitKey && s.waitx == 1 && s.pc == 0x202 && s.readV 1 == 0) = true := by
  decide
/-- T-K6, its last event. -/
theorem test_keyDown_ends_the_wait :
    nextIs (hostMove (.keyDown 7) (fresh.awaitKey 1))
      (fun s => s.readV 1 == 7 && s.readKey 7 && s.mode == .run) = true := by decide
/-- T-K7. -/
theorem test_ldVxDt :
    nextIs (run1 (fun s => s.setDt 0x3A) 0xF207) (fun s => s.readV 2 == 0x3A) = true := by decide
/-- T-K8. -/
theorem test_ldDtVx :
    nextIs (run1 (fun s => s.writeV 0 0x3C) 0xF015) (fun s => s.dt == 0x3C) = true := by decide
/-- T-K9. -/
theorem test_ldStVx :
    nextIs (run1 (fun s => s.writeV 4 2) 0xF418) (fun s => s.st == 2) = true := by decide

/-! ### Host events -/

/-- T-H1. -/
theorem test_tick_stays_at_zero :
    nextIs (hostMove .tick (fresh.setDt 1)) (fun s => s.dt == 0 && s.st == 0) = true := by decide
/-- T-H3. -/
theorem test_reset_leaves_fault :
    nextIs (hostMove .reset ((fresh.raise .stackUnderflow 0).putByte 0x300 7)) (fun s => s == State.reset) =
      true := by decide
/-- T-H6 with two bytes in place of none. -/
theorem test_load :
    nextIs (hostMove (.load [0x12, 0x34]) State.reset)
      (fun s => s.byteAt 512 == 0x12 && s.byteAt 513 == 0x34 && s.pc == 0x200) = true := by decide
/-- T-H5. -/
theorem test_load_too_large :
    hostMove (.load imageTooLarge) State.reset = .next State.reset ∧
      replyTo (.load imageTooLarge) State.reset = .programTooLarge := by
  have ha : State.reset.loadAdmitted = true := by decide
  constructor
  · simp [hostMove, ha, State.loadEvent, test_romFits_refuses]
  · simp [replyTo, ha, test_romFits_refuses]
/-- R195: LOAD after a Step is not admitted. -/
theorem test_load_after_a_step :
    refusedIs (hostMove (.load [0x12, 0x34]) fresh.closeLoad) .loadNotAdmitted = true ∧
      replyTo (.load [0x12, 0x34]) fresh.closeLoad = .nothing := by decide
/-- T-H7. -/
theorem test_snapshot :
    step { fresh with schedule := [.host .snapshot] } = .next fresh ∧
      replyTo .snapshot fresh = .grid Screen.clear := ⟨rfl, rfl⟩

/-! ### Witnesses: hypotheses that are met -/

/-- A state whose word at PC is `w`, with I, SP and PC given. -/
def at4094 (w : Nat) : State := (fresh.setPc 4094).withFetchWord 16 w

theorem witness_EncodingADecodedWordGivesItBack : decode 0xFFFF = .undefined 0xFFFF ∧
    decode 0xDFFF = .instr (.drw 15 15 15) := by decide

/-- Each clause at the least and the greatest word of its row; 0x5121 meets the last clause. -/
theorem witness_DecodeFollowsMatchAndMask :
    (specTable.all fun row => row.1 &&& row.2 == row.1 && (row.1 ||| ~~~row.2) &&& row.2 == row.1) =
      true ∧ (specTable.all fun row => (0x5121 : Word) &&& row.2 != row.1) = true := by decide

theorem witness_UndefinedWordOnlyAdvancesPc :
    (at4094 0x5121).aboutToStep ∧ (at4094 0x5121).pc.toNat ≤ 4094 ∧
      decode (at4094 0x5121).wordAtPc = .undefined (at4094 0x5121).wordAtPc :=
  ⟨⟨by decide, by decide⟩, by decide, by decide⟩

theorem witness_StepRunsTheDecodedInstruction :
    (at4094 0x8F15).aboutToStep ∧ (at4094 0x8F15).pc.toNat ≤ 4094 ∧
      decode (at4094 0x8F15).wordAtPc = .instr (.subReg 15 1) ∧ (at4094 0x8F15).schedule = [] ∧
      State.schedule { at4094 0x8F15 with schedule := [.core] } ≠ [] :=
  ⟨⟨by decide, by decide⟩, by decide, by decide, rfl, by decide⟩

theorem witness_FetchRaisesExactlyAbove4094 :
    ((fresh.setPc 4095).aboutToStep ∧ 4095 ≤ (fresh.setPc 4095).pc.toNat) ∧
    ((fresh.setPc 4096).aboutToStep ∧ 4095 ≤ (fresh.setPc 4096).pc.toNat) ∧
    (fresh.setPc 4094).pc.toNat ≤ 4094 :=
  ⟨⟨⟨by decide, by decide⟩, by decide⟩, ⟨⟨by decide, by decide⟩, by decide⟩, by decide⟩

theorem witness_CoreHasNoStepOutsideRun :
    ((fresh.raise .stackUnderflow 0).coreNext = true ∧ (fresh.raise .stackUnderflow 0).mode = .fault ∧
      (fresh.raise .stackUnderflow 0).planEnded = true) ∧
    ((fresh.awaitKey 1).coreNext = true ∧ (fresh.awaitKey 1).mode ≠ .run ∧
      ¬((fresh.awaitKey 1).mode = .fault ∧ (fresh.awaitKey 1).planEnded = true)) := by decide

/-- The four transitions, one each. -/
theorem witness_ModeChangesOnlyAsListed :
    nextIs (step { fresh.raise .stackUnderflow 0 with schedule := [.host .reset] })
      (fun t => t.mode != .fault) = true ∧
    nextIs (step { fresh.awaitKey 1 with schedule := [.host (.keyDown 7)] })
      (fun t => t.mode != .waitKey) = true ∧
    nextIs (step (fresh.withFetchWord 16 0xF10A)) (fun t => t.mode != .run) = true ∧
    nextIs (step (fresh.withFetchWord 16 0x00EE)) (fun t => t.mode != .run) = true := by decide

/-- A state of the invariant with a full stack, the last in the range of PC that can fetch, whose next
move faults. -/
def edge : State := ((at4094 0x2ABC).setSp 16).setI 0xFFFF

theorem witness_EveryMoveKeepsTheInvariant : edge.Inv ∧ ∃ t, step edge = .next t :=
  ⟨⟨by decide, ⟨rfl, rfl⟩, .inl (by decide), ⟨by decide, by decide⟩, fun _ => by decide⟩, ⟨_, rfl⟩⟩

theorem witness_ResetMeetsTheInvariant : ∃ t, hostMove .reset (fresh.raise .stackOverflow 0) = .next t :=
  ⟨_, rfl⟩

theorem witness_NoMoveWritesTheFont : ∃ t, step ((fresh.setI 0).withFetchWord 16 0xF355) = .next t :=
  ⟨_, rfl⟩

theorem witness_InstructionFaultsExactlyOutsideItsSafeRegion :
    fresh.mode ≠ .fault ∧ FaultFree (.ldBcd 0) (fresh.setI 4093) ∧
      ¬ FaultFree (.ldBcd 0) (fresh.setI 4094) :=
  ⟨by decide, show (4093 : Word).toNat + 2 ≤ 4095 by decide,
    show ¬ (4094 : Word).toNat + 2 ≤ 4095 by decide⟩

theorem witness_InstructionsChangeOnlyTheirUnits :
    nextIs (exec (.call 0xABC) fresh) (fun t => t.pc != fresh.pc && t.sp != fresh.sp) = true ∧
    nextIs (exec (.addI 0) ((fresh.setI 0xFFFF).writeV 0 2)) (fun t => t.i != 0xFFFF) = true ∧
    nextIs (exec (.ldBcd 0) ((fresh.writeV 0 9).setI 0x300))
      (fun t => t.byteAt 0x302 != fresh.byteAt 0x302) = true ∧
    nextIs (exec .ret fresh) (fun t => t.cause != fresh.cause && t.mode != fresh.mode) = true ∧
    nextIs (exec (.ldVxKey 1) fresh) (fun t => t.mode != fresh.mode) = true := by decide

theorem witness_HostTurnIsTheHostsMove :
    State.hostNext { fresh with schedule := [.host .tick] } .tick ∧
    State.hostNext { fresh.closeLoad with schedule := [.host (.load [1])] } (.load [1]) :=
  ⟨rfl, rfl⟩

theorem witness_WrittenByteReadsBack :
    (fresh.putByte 0x300 7).memWf = true ∧ 4095 ≤ 4095 ∧ 4095 < 4096 := by decide

theorem witness_WordReadIsBigEndian : 4094 ≤ 4094 ∧ 4095 = 4095 ∧ 4096 ≤ 4096 := by decide

theorem witness_CallStackIsLastInFirstOut :
    (fresh.setSp 15).sp.toNat < 16 ∧ 16 ≤ (fresh.setSp 16).sp.toNat := by decide

/-- The last row read lies at 4095; and n = 0 with I out of range; both values of the collision. -/
theorem witness_DrwXorsTheSpriteAndReportsCollision :
    ((0 : Nibble) = 0 ∨ (fresh.setI 0xFFFF).i.toNat + (0 : Nibble).toNat ≤ 4096) ∧
    ((15 : Nibble) = 0 ∨ (fresh.setI 4081).i.toNat + (15 : Nibble).toNat ≤ 4096) ∧
    ((fresh.fb.flip 63 31).pixel 63 31 = true ∧ spriteBit 63 31 [0x80] 63 31 = true) ∧
    fresh.fb.pixel 63 31 = false := by decide

theorem witness_DrwOutOfRangeDrawsNothing :
    (1 : Nibble) ≠ 0 ∧ 4096 < (fresh.setI 4096).i.toNat + (1 : Nibble).toNat ∧
    4096 < (fresh.setI 4095).i.toNat + (2 : Nibble).toNat := by decide

theorem witness_DrawingTwiceRestoresTheScreen :
    (14 : Nibble) ≠ 15 ∧ (0 : Nibble) ≠ 15 ∧ FaultFree (.drw 14 0 15) (fresh.setI 4081) ∧
      ∃ t, exec (.drw 14 0 15) (fresh.setI 4081) = .next t :=
  ⟨by decide, by decide, .inl (show (4081 : Word).toNat + (15 : Nibble).toNat ≤ 4096 by decide),
    ⟨_, rfl⟩⟩

theorem witness_RetPopsTheReturnAddress :
    (1 ≤ (fresh.setSp 1).sp.toNat ∧ (fresh.setSp 1).sp.toNat ≤ 16) ∧
    (1 ≤ (fresh.setSp 16).sp.toNat ∧ (fresh.setSp 16).sp.toNat ≤ 16) := by decide

theorem witness_RetOnAnEmptyStackFaults :
    (fresh.sp.toNat = 0 ∨ 16 < fresh.sp.toNat) ∧ fresh.sp = 0 ∧
    ((fresh.setSp 17).sp.toNat = 0 ∨ 16 < (fresh.setSp 17).sp.toNat) := by decide

theorem witness_CallPushesAndJumps : (fresh.setSp 15).sp.toNat < 16 := by decide

theorem witness_SeventeenthCallFaults : 16 ≤ (fresh.setSp 16).sp.toNat := by decide

/-- The first CALL fills slot 0; `u` has t's SP and slot 0, and another value in slot 1, as after a
nested call that has returned. -/
theorem witness_ReturnResumesAfterTheCall : ∃ t u : State, fresh.sp.toNat < 16 ∧
    exec (.call 0xFFF) fresh = .next t ∧ u.sp = t.sp ∧
    u.slot (BitVec.ofNat 4 fresh.sp.toNat) = t.slot (BitVec.ofNat 4 fresh.sp.toNat) ∧
    u.slot 1 ≠ t.slot 1 :=
  ⟨_, ((fresh.setSlot 0 0x200).setSlot 1 0xABC).setSp 1, by decide, rfl, by decide, by decide, by decide⟩

theorem witness_ReturnResumesAfterTheCall_last_slot : ∃ t, (fresh.setSp 15).sp.toNat < 16 ∧
    exec (.call 0xFFF) (fresh.setSp 15) = .next t :=
  ⟨_, by decide, rfl⟩

/-- The clauses x ≠ 15 and x = 15 of the four flag statements. -/
theorem witness_AddRegistersSetsCarry : (14 : Nibble) ≠ 15 := by decide
theorem witness_SubtractSetsStrictlyGreater : (14 : Nibble) ≠ 15 := by decide
theorem witness_ReverseSubtractSetsStrictlyGreater : (14 : Nibble) ≠ 15 := by decide
theorem witness_ShiftsMoveOneBitIntoVf : (14 : Nibble) ≠ 15 ∧ (15 : Nibble) = 15 := by decide

theorem witness_RandomIsADrawnByteMasked :
    State.draws { fresh with draws := [0xA7] } = 0xA7 :: [] ∧ fresh.draws = [] := by decide

theorem witness_BcdStoresThreeDigits :
    (fresh.setI 4093).effAddr 2 ≤ 4095 ∧ (fresh.setI 4093).memWf = true := by decide

/-- Two digits fit at 4094; none at 4096. -/
theorem witness_BcdOutOfRangeKeepsTheDigitsThatFit :
    4095 < (fresh.setI 4094).effAddr 2 ∧ (fresh.setI 4094).memWf = true ∧
    (1 < 3 ∧ (fresh.setI 4094).effAddr 1 ≤ 4095) ∧ 4095 < (fresh.setI 4096).effAddr 2 := by decide

theorem witness_StoreRegistersWritesV0ToVx :
    (fresh.setI 4080).effAddr (15 : Nibble).toNat ≤ 4095 ∧ (fresh.setI 4080).memWf = true ∧
    (15 : Nibble).toNat ≤ (15 : Nibble).toNat := by decide

theorem witness_StoreRegistersOutOfRangeKeepsTheBytesThatFit :
    4095 < (fresh.setI 4081).effAddr (15 : Nibble).toNat ∧ (fresh.setI 4081).memWf = true ∧
    (fresh.setI 4081).effAddr (14 : Nibble).toNat ≤ 4095 ∧
    4095 < (fresh.setI 4096).effAddr (0 : Nibble).toNat := by decide

theorem witness_LoadRegistersReadsV0ToVx :
    (fresh.setI 4080).effAddr (15 : Nibble).toNat ≤ 4095 ∧
    (15 : Nibble).toNat ≤ (15 : Nibble).toNat := by decide

theorem witness_LoadRegistersOutOfRangeKeepsTheBytesRead :
    4095 < (fresh.setI 4081).effAddr (15 : Nibble).toNat ∧
    (fresh.setI 4081).effAddr (14 : Nibble).toNat ≤ 4095 ∧
    4095 < (fresh.setI 4096).effAddr (0 : Nibble).toNat := by decide

theorem witness_StoredRegistersLoadBack : ∃ t, (fresh.setI 4095).memWf = true ∧
    (fresh.setI 4095).effAddr (0 : Nibble).toNat ≤ 4095 ∧
    exec (.storeRegs 0) (fresh.setI 4095) = .next t ∧ t.i = (fresh.setI 4095).i ∧ Agree .mem t t :=
  ⟨_, by decide, by decide, rfl, rfl, fun _ => rfl⟩

theorem witness_KeySkipsTestTheKeyOfVx : ((fresh.writeV 1 15).readV 1).toNat ≤ 15 := by decide

theorem witness_KeySkipsFaultAboveFifteen : 15 < ((fresh.writeV 1 16).readV 1).toNat := by decide

theorem witness_KeyWaitEndsAtTheNextKeyDown :
    (fresh.awaitKey 15).mode = .waitKey ∧ (fresh.awaitKey 15).waitx = 15 := by decide

theorem witness_KeyDownOutsideAWaitSetsOneKey :
    fresh.mode ≠ .waitKey ∧ (fresh.raise .stackUnderflow 0).mode ≠ .waitKey := by decide

theorem witness_LoadCopiesTheImage :
    State.reset.memWf = true ∧ State.reset.loadAdmitted = true ∧
    imageThatFits.length + 512 < 4096 := by
  refine ⟨by decide, by decide, ?_⟩
  rw [imageThatFits, List.length_replicate]
  omega

theorem witness_LoadTooLargeChangesNothing :
    State.reset.loadAdmitted = true ∧ 4096 ≤ imageTooLarge.length + 512 := by
  refine ⟨by decide, ?_⟩
  rw [imageTooLarge, List.length_replicate]

/-- A step that leaves LOAD admitted, one of the core that ends it, and states of both last clauses. -/
theorem witness_LoadIsAdmittedOnlyBetweenResetAndTheFirstStep :
    nextIs (step { fresh with schedule := [.host .reset] }) (fun t => t.loadOpen) = true ∧
    (fresh.aboutToStep ∧ nextIs (step fresh) (fun t => !t.loadOpen) = true) ∧
    nextIs (step (fresh.withFetchWord 16 0x00EE)) (fun t => t.mode != .run) = true :=
  ⟨by decide, ⟨⟨by decide, by decide⟩, by decide⟩, by decide⟩

theorem witness_SnapshotReadsTheFramebuffer :
    State.hostNext { fresh with schedule := [.host .snapshot] } .snapshot := rfl

/-- A state with no planned turn, in an environment that goes on freely: whichever move the free turn
is, it answers a next state, since a LOAD is still admitted. -/
def freely : State := { fresh with environment := .free 3 }

theorem witness_TurnsAreThePlannedOnesThenTheFreeOnes :
    State.schedule { fresh with schedule := [.host .tick, .core] } = .host .tick :: [.core] ∧
    freely.schedule = [] ∧ freely.environment = .free 3 ∧
    ∃ t, Sys2Proof.core.run 1 freely = .next t := by
  refine ⟨rfl, rfl, rfl, ?_⟩
  have h : step freely = takeTurn (Config.freeTurn 3) freely.endTurn := rfl
  suffices hs : ∃ t, step freely = .next t by
    obtain ⟨t, ht⟩ := hs
    exact ⟨t, by simp [Host.Core.run, Sys2Proof.core, ht]⟩
  rw [h]
  cases Config.freeTurn 3 with
  | core => exact ⟨_, rfl⟩
  | host e => cases e <;> exact ⟨_, rfl⟩

end Sys2Proof.Tests
end

section
/-! What an instruction can do, said once: which units it writes, and that it then either completes
or raises one of the rows of the cause table (60_exceptions.md R160). -/

namespace Sys2Proof.Machine

/-! ### The shared operations, case by case -/

/-- The information values a fault of this cause records (60_exceptions.md R160). -/
def FaultRow (c : Cause) (info : Nat) : Prop :=
  match c with
  | .none => False
  | .memOutOfBounds => 4096 ≤ info ∧ info ≤ 65550
  | .stackOverflow => info = 0
  | .stackUnderflow => info = 0
  | .keyIndexOutOfRange => 16 ≤ info ∧ info ≤ 255

theorem FaultRow.cause_ne_none {c : Cause} {n : Nat} (h : FaultRow c n) : c ≠ .none := by
  rintro rfl
  exact h

/-- A fault entry with a row of the cause table leaves a correct fault record. -/
theorem State.raise_faultRecordOk (s : State) {c : Cause} {n : Nat} (h : FaultRow c n) :
    (s.raise c n).faultRecordOk := by
  cases c with
  | none => exact h
  | memOutOfBounds =>
    have hn : (BitVec.ofNat 17 n).toNat = n := Nat.mod_eq_of_lt (by have := h.2; omega)
    simpa only [State.faultRecordOk, State.raise_mode, State.raise_cause, State.raise_finfo, hn,
      FaultRow] using h
  | stackOverflow => exact congrArg (BitVec.ofNat 17) h
  | stackUnderflow => exact congrArg (BitVec.ofNat 17) h
  | keyIndexOutOfRange =>
    have hn : (BitVec.ofNat 17 n).toNat = n := Nat.mod_eq_of_lt (by have := h.2; omega)
    simpa only [State.faultRecordOk, State.raise_mode, State.raise_cause, State.raise_finfo, hn,
      FaultRow] using h

/-- The first address above 4095 is 4096, or the first address of all. -/
theorem firstOutOfRange_bounds {a : Nat} (h : a < 65536) :
    4096 ≤ firstOutOfRange a ∧ firstOutOfRange a ≤ 65550 := by
  unfold firstOutOfRange
  split <;> omega

/-- The address recorded by an access that starts at `I` is a row of the cause table. -/
theorem State.faultRow_firstOutOfRange (s : State) :
    FaultRow .memOutOfBounds (firstOutOfRange (s.effAddr 0)) :=
  firstOutOfRange_bounds (show s.i.toNat + 0 < 65536 from s.i.isLt)

/-- Reads of `n` bytes complete and change nothing, or raise in the state they began in. -/
theorem State.readBytes_cases (s : State) (a n : Nat) :
    (∃ bs, s.readBytes a n = .ok bs s) ∨
    s.readBytes a n = .raised (s.raise .memOutOfBounds (firstOutOfRange a)) := by
  by_cases h : a + n ≤ 4096
  · exact .inl ⟨_, s.readBytes_ok h⟩
  · by_cases hn : n = 0
    · subst hn
      exact .inl ⟨[], rfl⟩
    · exact .inr (s.readBytes_raised (by omega) hn)

/-- Stores reach a state `u` in which only memory differs, and complete or raise there. -/
theorem State.storeBytes_cases (s : State) (a : Nat) (bs : List Byte) :
    ∃ u, SameExcept [.mem] s u ∧ (s.memWf = true → u.memWf = true) ∧
      (s.storeBytes a bs = .ok () u ∨
        s.storeBytes a bs = .raised (u.raise .memOutOfBounds (firstOutOfRange a))) := by
  by_cases h : a + bs.length ≤ 4096
  · exact ⟨_, s.storeBytes_frame h, fun hw => State.storeBytes_memWf hw h, .inl (s.storeBytes_ok h)⟩
  · by_cases hb : bs = []
    · subst hb
      exact ⟨s, SameExcept.refl _ _, id, .inl rfl⟩
    · by_cases ha : a ≤ 4095
      · have ht : a + (bs.take (4096 - a)).length ≤ 4096 := by
          rw [List.length_take]
          omega
        exact ⟨_, s.storeBytes_frame ht, fun hw => State.storeBytes_memWf hw ht,
          .inr (s.storeBytes_raised (by omega) hb)⟩
      · have h0 : 4096 - a = 0 := by omega
        refine ⟨s, SameExcept.refl _ _, id, .inr ?_⟩
        rw [s.storeBytes_raised (by omega) hb, h0]
        rfl

/-- Loads leave memory's list alone. -/
theorem State.loadBytes_memWf (s : State) (r a n : Nat) :
    (s.loadBytes r a n).state.memWf = s.memWf := by
  induction n generalizing s r a with
  | zero => rfl
  | succ n ih =>
    by_cases ha : a ≤ 4095
    · simp only [State.loadBytes, s.memRead_ok ha, ih, State.writeV_memWf]
    · simp only [State.loadBytes, s.memRead_raised (show 4095 < a by omega), Run.state,
        State.raise_memWf]

/-- Loads that stay inside memory change only registers from `r` up. -/
theorem State.loadBytes_frame (s : State) {r a n : Nat} (h : a + n ≤ 4096) (hr : r + n ≤ 16) :
    SameExcept [.v] s (s.loadBytes r a n).state ∧
    OnlyRegs (fun q => r ≤ q.toNat ∧ q.toNat < r + n) s (s.loadBytes r a n).state := by
  obtain ⟨t, ht, hf, hv⟩ := s.loadBytes_ok h hr
  rw [ht]
  exact ⟨hf, fun q hq => (hv q).trans (if_neg hq)⟩

/-- Loads reach a state `u` in which only the registers `r` to `r + n - 1` differ, and complete or
raise there. -/
theorem State.loadBytes_cases (s : State) {r a n : Nat} (hr : r + n ≤ 16) :
    ∃ u, SameExcept [.v] s u ∧ OnlyRegs (fun q => r ≤ q.toNat ∧ q.toNat < r + n) s u ∧
      u.memWf = s.memWf ∧
      (s.loadBytes r a n = .ok () u ∨
        s.loadBytes r a n = .raised (u.raise .memOutOfBounds (firstOutOfRange a))) := by
  by_cases h : a + n ≤ 4096
  · obtain ⟨hf, hv⟩ := s.loadBytes_frame h hr
    obtain ⟨t, ht, -⟩ := s.loadBytes_ok h hr
    exact ⟨_, hf, hv, s.loadBytes_memWf r a n, .inl (by rw [ht, Run.state])⟩
  · by_cases hn : n = 0
    · subst hn
      exact ⟨s, SameExcept.refl _ _, fun _ _ => rfl, rfl, .inl rfl⟩
    · have hle : 4096 - a ≤ n := by omega
      have hraised := s.loadBytes_raised (r := r) (a := a) (n := n) (by omega) hn
      by_cases ha : a ≤ 4095
      · obtain ⟨hf, hv⟩ := s.loadBytes_frame (r := r) (a := a) (n := 4096 - a) (by omega) (by omega)
        exact ⟨_, hf, fun q hq => hv q (by omega), s.loadBytes_memWf _ _ _, .inr hraised⟩
      · have h0 : 4096 - a = 0 := by omega
        rw [h0] at hraised
        exact ⟨s, SameExcept.refl _ _, fun _ _ => rfl, rfl, .inr hraised⟩

/-! ### The stack and key instructions, case by case -/

/-- 00EE pops a return address (42_control_flow.md R101). -/
theorem exec_ret_ok (s : State) (h1 : 1 ≤ s.sp.toNat) (h2 : s.sp.toNat ≤ 16) :
    exec .ret s =
      .next ((s.setSp (s.sp - 1)).setPc (s.slot ((s.sp - 1).setWidth 4))) := by
  simp only [exec, execRet, s.pop_ok h1 h2]

/-- 00EE with no return address stacked raises after the decrement (10_state.md R20). -/
theorem exec_ret_raised (s : State) (h : s.sp.toNat = 0 ∨ 16 < s.sp.toNat) :
    exec .ret s = .next ((s.setSp (s.sp - 1)).raise .stackUnderflow 0) := by
  simp only [exec, execRet, s.pop_raised h]

/-- 2nnn pushes PC and jumps (42_control_flow.md R103). -/
theorem exec_call_ok (nnn : Addr12) (s : State) (h : s.sp.toNat < 16) :
    exec (.call nnn) s =
      .next (((s.setSlot (s.sp.setWidth 4) s.pc).setSp (s.sp + 1)).setPc (zextAddr nnn)) := by
  simp only [exec, execCall, s.push_ok s.pc h]

/-- 2nnn with 16 return addresses stacked raises (10_state.md R19). -/
theorem exec_call_raised (nnn : Addr12) (s : State) (h : 16 ≤ s.sp.toNat) :
    exec (.call nnn) s = .next (s.raise .stackOverflow 0) := by
  simp only [exec, execCall, s.push_raised s.pc h]

/-- Ex9E and ExA1 skip or not, or raise for a key index above 15 (45_keys_timers.md R151, R152). -/
theorem exec_keySkip_cases {i : Instr} {x : Nibble} (hi : i = .skp x ∨ i = .sknp x) (s : State) :
    (∃ c, exec i s = .next (s.skipIf c)) ∨
    15 < (s.readV x).toNat ∧
      exec i s = .next (s.raise .keyIndexOutOfRange (s.readV x).toNat) := by
  by_cases h : (s.readV x).toNat ≤ 15
  · left
    obtain rfl | rfl := hi
    · exact ⟨_, by simp only [exec, execSkp, s.keyOperand_ok x h]; rfl⟩
    · exact ⟨_, by simp only [exec, execSknp, s.keyOperand_ok x h]; rfl⟩
  · refine .inr ⟨by omega, ?_⟩
    obtain rfl | rfl := hi
    · simp only [exec, execSkp, s.keyOperand_raised x (by omega)]
    · simp only [exec, execSknp, s.keyOperand_raised x (by omega)]

/-- Dxyn draws and sets VF, or raises in the state it began in (41_display.md R93). -/
theorem exec_drw_cases (x y n : Nibble) (s : State) :
    (∃ f c, exec (.drw x y n) s = .next ((s.setFb f).setFlag c)) ∨
    exec (.drw x y n) s = .next (s.raise .memOutOfBounds (firstOutOfRange (s.effAddr 0))) := by
  obtain ⟨bs, hok⟩ | hraised := s.readBytes_cases (s.effAddr 0) n.toNat
  · exact .inl ⟨_, _, by simp only [exec, execDrw, hok]; rfl⟩
  · exact .inr (by simp only [exec, execDrw, hraised])

/-! ### What every instruction can do -/

/-- The units an instruction writes, its fault entry aside (the 'changed by' sentences of
10_state.md). -/
def writtenUnits : Instr → List Component
  | .cls => [.fb]
  | .ret => [.sp, .pc]
  | .call _ => [.stack, .sp, .pc]
  | .jp _ | .jpV0 _ | .seImm _ _ | .sneImm _ _ | .seReg _ _ | .sneReg _ _ | .skp _
  | .sknp _ => [.pc]
  | .ldImm _ _ | .addImm _ _ | .ldReg _ _ | .orReg _ _ | .andReg _ _ | .xorReg _ _ | .addReg _ _
  | .subReg _ _ | .shr _ _ | .subnReg _ _ | .shl _ _ | .ldVxDt _ | .loadRegs _ => [.v]
  | .ldI _ | .addI _ | .ldGlyph _ => [.i]
  | .rnd _ _ => [.v, .draws, .drawn]
  | .drw _ _ _ => [.v, .fb]
  | .ldVxKey _ => [.mode, .waitx]
  | .ldDtVx _ => [.dt]
  | .ldStVx _ => [.st]
  | .ldBcd _ | .storeRegs _ => [.mem]

/-- From `s` to `u` an instruction has written nothing but its own units and registers, and memory
has stayed canonical. -/
structure WroteOnly (i : Instr) (s u : State) : Prop where
  frame : SameExcept (writtenUnits i) s u
  regs : OnlyRegs (MayWrite i) s u
  memWf : s.memWf = true → u.memWf = true

/-- An instruction that writes no register has written only its units. -/
theorem WroteOnly.of_frame {i : Instr} {s u : State} (h : SameExcept (writtenUnits i) s u)
    (hv : .v ∉ writtenUnits i) (hw : u.memWf = s.memWf) : WroteOnly i s u :=
  ⟨h, fun r _ => h .v hv r, fun hs => hw.trans hs⟩

theorem WroteOnly.refl (i : Instr) (s : State) : WroteOnly i s s :=
  ⟨SameExcept.refl _ _, fun _ _ => rfl, id⟩

/-- A skip has written only PC. -/
theorem WroteOnly.skipIf {i : Instr} (s : State) (c : Bool) (hi : writtenUnits i = [.pc]) :
    WroteOnly i s (s.skipIf c) :=
  .of_frame (hi ▸ s.skipIf_frame c) (by simp [hi]) (by cases c <;> rfl)

/-- An instruction completes in a state where it has written only its units, or it is one of the
eight that can fault and raises there, with a row of the cause table (40_step_cycle.md R86). -/
def CompletesOrRaises (i : Instr) (s : State) : Prop :=
  ∃ u, WroteOnly i s u ∧ (exec i s = .next u ∨
    CanFault i ∧ ∃ c n, FaultRow c n ∧ exec i s = .next (u.raise c n))

theorem CompletesOrRaises.next {i : Instr} {s u : State}
    (e : exec i s = .next u) (h : WroteOnly i s u) : CompletesOrRaises i s :=
  ⟨u, h, .inl e⟩

theorem CompletesOrRaises.raise {i : Instr} {s u : State} {c : Cause} {n : Nat}
    (e : exec i s = .next (u.raise c n)) (h : WroteOnly i s u) (hi : CanFault i)
    (hr : FaultRow c n) : CompletesOrRaises i s :=
  ⟨u, h, .inr ⟨hi, c, n, hr, e⟩⟩

/-- A write of the destination register alone. -/
theorem CompletesOrRaises.writeV {i : Instr} {s : State} {x : Nibble} {b : Byte}
    (e : exec i s = .next (s.writeV x b)) (hu : writtenUnits i = [.v])
    (hr : MayWrite i = (· = x)) : CompletesOrRaises i s :=
  .next e ⟨hu ▸ s.writeV_frame x b, hr ▸ (s.writeV_spec x b).2.1, id⟩

/-- A write of VF and then of the destination register. -/
theorem CompletesOrRaises.setFlag_writeV {i : Instr} {s : State} {c : Bool} {x : Nibble} {b : Byte}
    (e : exec i s = .next ((s.setFlag c).writeV x b)) (hu : writtenUnits i = [.v])
    (hr : MayWrite i = fun r => r = x ∨ r = 15) : CompletesOrRaises i s := by
  obtain ⟨-, -, hregs, hframe⟩ := s.setFlag_writeV_spec c x b
  exact .next e ⟨hu ▸ hframe, hr ▸ hregs, id⟩

/-- Stores from the address in I. -/
theorem CompletesOrRaises.storeBytes {i : Instr} {s : State} {bs : List Byte}
    (e : exec i s = (s.storeBytes (s.effAddr 0) bs).outcome) (hu : writtenUnits i = [.mem])
    (hi : CanFault i) : CompletesOrRaises i s := by
  obtain ⟨u, hframe, hwf, hok | hraised⟩ := s.storeBytes_cases (s.effAddr 0) bs
  all_goals
    have hv : OnlyRegs (MayWrite i) s u := fun r _ => hframe .v (by decide) r
  · exact .next (by rw [e, hok]; rfl) ⟨hu ▸ hframe, hv, hwf⟩
  · exact .raise (by rw [e, hraised]; rfl) ⟨hu ▸ hframe, hv, hwf⟩ hi s.faultRow_firstOutOfRange

theorem execDrw_completesOrRaises (x y n : Nibble) (s : State) :
    CompletesOrRaises (.drw x y n) s := by
  obtain ⟨f, c, e⟩ | e := exec_drw_cases x y n s
  · refine .next e ⟨?_, fun r hr => ?_, id⟩
    · exact ((s.setFb_frame _).mono (by simp [writtenUnits])).trans
        ((State.setFlag_frame _ _).mono (by simp [writtenUnits]))
    · exact State.readV_setFlag_ne _ _ hr
  · exact .raise e (.refl _ s) trivial s.faultRow_firstOutOfRange

theorem execLoadRegs_completesOrRaises (x : Nibble) (s : State) :
    CompletesOrRaises (.loadRegs x) s := by
  have hx := x.isLt
  obtain ⟨u, hframe, hregs, hwf, h⟩ :=
    s.loadBytes_cases (r := 0) (a := s.effAddr 0) (n := x.toNat + 1) (by omega)
  have hw : WroteOnly (.loadRegs x) s u :=
    ⟨hframe, fun q hq => hregs q fun hlt => hq (show q.toNat ≤ x.toNat by omega), hwf.trans⟩
  obtain hok | hraised := h
  · exact .next (by simp only [exec, execLoadRegs, hok]; rfl) hw
  · exact .raise (by simp only [exec, execLoadRegs, hraised]; rfl) hw trivial
      s.faultRow_firstOutOfRange

theorem execRet_completesOrRaises (s : State) : CompletesOrRaises .ret s := by
  have hsp : WroteOnly .ret s (s.setSp (s.sp - 1)) :=
    .of_frame ((s.setSp_frame _).mono (by simp [writtenUnits])) (by simp [writtenUnits]) rfl
  by_cases h : 1 ≤ s.sp.toNat ∧ s.sp.toNat ≤ 16
  · exact .next (exec_ret_ok s h.1 h.2)
      (.of_frame (hsp.frame.trans ((State.setPc_frame _ _).mono (by simp [writtenUnits])))
        (by simp [writtenUnits]) rfl)
  · exact .raise (exec_ret_raised s (by omega)) hsp trivial rfl

theorem execCall_completesOrRaises (nnn : Addr12) (s : State) :
    CompletesOrRaises (.call nnn) s := by
  by_cases h : s.sp.toNat < 16
  · refine .next (exec_call_ok nnn s h) (.of_frame ?_ (by simp [writtenUnits]) rfl)
    exact (((s.setSlot_frame _ _).mono (by simp [writtenUnits])).trans
      ((State.setSp_frame _ _).mono (by simp [writtenUnits]))).trans
      ((State.setPc_frame _ _).mono (by simp [writtenUnits]))
  · exact .raise (exec_call_raised nnn s (by omega)) (.refl _ s) trivial rfl

/-- A key index above 15 is a row of the cause table. -/
theorem faultRow_keyIndex {b : Byte} (h : 15 < b.toNat) : FaultRow .keyIndexOutOfRange b.toNat :=
  ⟨h, Nat.le_of_lt_succ b.isLt⟩

/-- Ex9E and ExA1. -/
theorem CompletesOrRaises.keySkip {i : Instr} {x : Nibble} (hi : i = .skp x ∨ i = .sknp x)
    (s : State) (hu : writtenUnits i = [.pc]) (hf : CanFault i) : CompletesOrRaises i s := by
  obtain ⟨c, e⟩ | ⟨h, e⟩ := exec_keySkip_cases hi s
  · exact .next e (.skipIf s c hu)
  · exact .raise e (.refl _ s) hf (faultRow_keyIndex h)

theorem execRnd_completesOrRaises (x : Nibble) (kk : Byte) (s : State) :
    CompletesOrRaises (.rnd x kk) s :=
  .next rfl
    ⟨(s.consumeDraw_frame.mono (by simp [writtenUnits])).trans
      ((State.writeV_frame _ _ _).mono (by simp [writtenUnits])),
    fun _ hr => State.readV_writeV_ne _ _ hr, id⟩

/-- Every instruction, in every state, completes or raises, and has written only its units. -/
theorem exec_completesOrRaises (i : Instr) (s : State) : CompletesOrRaises i s := by
  cases i with
  | cls => exact .next rfl (.of_frame (s.setFb_frame _) (by simp [writtenUnits]) rfl)
  | ret => exact execRet_completesOrRaises s
  | call nnn => exact execCall_completesOrRaises nnn s
  | jp _ | jpV0 _ => exact .next rfl (.of_frame (s.setPc_frame _) (by simp [writtenUnits]) rfl)
  | seImm _ _ | sneImm _ _ | seReg _ _ | sneReg _ _ => exact .next rfl (.skipIf s _ rfl)
  | skp x => exact .keySkip (.inl rfl) s rfl trivial
  | sknp x => exact .keySkip (.inr rfl) s rfl trivial
  | ldImm _ _ | addImm _ _ | ldReg _ _ | orReg _ _ | andReg _ _ | xorReg _ _ | ldVxDt _ =>
    exact .writeV rfl rfl rfl
  | addReg _ _ | subReg _ _ | shr _ _ | subnReg _ _ | shl _ _ =>
    exact .setFlag_writeV rfl rfl rfl
  | rnd x kk => exact execRnd_completesOrRaises x kk s
  | drw x y n => exact execDrw_completesOrRaises x y n s
  | ldI _ | addI _ | ldGlyph _ =>
    exact .next rfl (.of_frame (s.setI_frame _) (by simp [writtenUnits]) rfl)
  | ldVxKey x => exact .next rfl (.of_frame (s.awaitKey_frame x) (by simp [writtenUnits]) rfl)
  | ldDtVx _ => exact .next rfl (.of_frame (s.setDt_frame _) (by simp [writtenUnits]) rfl)
  | ldStVx _ => exact .next rfl (.of_frame (s.setSt_frame _) (by simp [writtenUnits]) rfl)
  | ldBcd _ | storeRegs _ => exact .storeBytes rfl rfl trivial
  | loadRegs x => exact execLoadRegs_completesOrRaises x s

/-- The same of the next state: it is the state the instruction has written, or that state after the
fault entry. -/
theorem exec_next_cases {i : Instr} {s t : State} (h : exec i s = .next t) :
    WroteOnly i s t ∨
    CanFault i ∧ ∃ u c n, WroteOnly i s u ∧ FaultRow c n ∧ t = u.raise c n := by
  obtain ⟨u, hu, e | ⟨hi, c, n, hr, e⟩⟩ := exec_completesOrRaises i s
  · cases h.symm.trans e
    exact .inl hu
  · cases h.symm.trans e
    exact .inr ⟨hi, u, c, n, hu, hr, rfl⟩

end Sys2Proof.Machine
end

section
/-! The whole-machine frame of an instruction (O15), read off the units it writes. -/

namespace Sys2Proof.Machine

/-- What differs after an instruction is one of the units it writes, or a fault register after one
of the eight instructions that can fault. -/
theorem exec_changes {i : Instr} {s t : State} {c : Component} (h : exec i s = .next t)
    (hc : ¬ Agree c s t) :
    c ∈ writtenUnits i ∨ CanFault i ∧ c ∈ [Component.mode, .cause, .finfo] := by
  by_contra hn
  rw [not_or, not_and] at hn
  obtain hw | ⟨hi, u, k, n, hw, -, rfl⟩ := exec_next_cases h
  · exact hc (hw.frame c hn.1)
  · exact hc ((hw.frame c hn.1).trans (u.raise_frame k n c (hn.2 hi)))

/-- A component outside the fault registers changes only by the instructions that write it. -/
theorem exec_changes_unit {i : Instr} {s t : State} {c : Component} (h : exec i s = .next t)
    (hc : ¬ Agree c s t) (hf : c ∉ [Component.mode, .cause, .finfo]) : c ∈ writtenUnits i :=
  (exec_changes h hc).resolve_right fun hr => hf hr.2

/-- An instruction leaves a component alone that no instruction writes. -/
theorem exec_agree {i : Instr} {s t : State} {c : Component} (h : exec i s = .next t)
    (hu : c ∉ writtenUnits i) (hf : c ∉ [Component.mode, .cause, .finfo]) : Agree c s t :=
  not_not.mp fun hc => hu (exec_changes_unit h hc hf)

/-- Only the registers an instruction may write change, whether it faults or not. -/
theorem exec_onlyRegs {i : Instr} {s t : State} (h : exec i s = .next t) :
    OnlyRegs (MayWrite i) s t := by
  obtain hw | ⟨-, u, k, n, hw, -, rfl⟩ := exec_next_cases h
  · exact hw.regs
  · exact hw.regs

/-! ### Which instructions write a component -/

section
variable {i : Instr}

theorem of_i_mem_writtenUnits (h : .i ∈ writtenUnits i) :
    (∃ nnn, i = .ldI nnn) ∨ (∃ x, i = .addI x) ∨ ∃ x, i = .ldGlyph x := by
  cases i <;> simp_all [writtenUnits]

theorem of_pc_mem_writtenUnits (h : .pc ∈ writtenUnits i) :
    i = .ret ∨ (∃ nnn, i = .jp nnn ∨ i = .call nnn ∨ i = .jpV0 nnn) ∨
      (∃ x kk, i = .seImm x kk ∨ i = .sneImm x kk) ∨ (∃ x y, i = .seReg x y ∨ i = .sneReg x y) ∨
      ∃ x, i = .skp x ∨ i = .sknp x := by
  cases i <;> simp_all [writtenUnits]

theorem of_sp_mem_writtenUnits (h : .sp ∈ writtenUnits i) : i = .ret ∨ ∃ nnn, i = .call nnn := by
  cases i <;> simp_all [writtenUnits]

theorem of_stack_mem_writtenUnits (h : .stack ∈ writtenUnits i) : ∃ nnn, i = .call nnn := by
  cases i <;> simp_all [writtenUnits]

theorem of_dt_mem_writtenUnits (h : .dt ∈ writtenUnits i) : ∃ x, i = .ldDtVx x := by
  cases i <;> simp_all [writtenUnits]

theorem of_st_mem_writtenUnits (h : .st ∈ writtenUnits i) : ∃ x, i = .ldStVx x := by
  cases i <;> simp_all [writtenUnits]

theorem of_mem_mem_writtenUnits (h : .mem ∈ writtenUnits i) :
    ∃ x, i = .ldBcd x ∨ i = .storeRegs x := by
  cases i <;> simp_all [writtenUnits]

theorem of_fb_mem_writtenUnits (h : .fb ∈ writtenUnits i) : i = .cls ∨ ∃ x y n, i = .drw x y n := by
  cases i <;> simp_all [writtenUnits]

theorem of_mode_mem_writtenUnits (h : .mode ∈ writtenUnits i) : ∃ x, i = .ldVxKey x := by
  cases i <;> simp_all [writtenUnits]

theorem of_waitx_mem_writtenUnits (h : .waitx ∈ writtenUnits i) : ∃ x, i = .ldVxKey x := by
  cases i <;> simp_all [writtenUnits]

theorem of_draws_mem_writtenUnits (h : .draws ∈ writtenUnits i) : ∃ x kk, i = .rnd x kk := by
  cases i <;> simp_all [writtenUnits]

theorem of_drawn_mem_writtenUnits (h : .drawn ∈ writtenUnits i) : ∃ x kk, i = .rnd x kk := by
  cases i <;> simp_all [writtenUnits]

/-- The components that no instruction writes. -/
theorem not_mem_writtenUnits {c : Component} (i : Instr)
    (hc : c ∈ [Component.cause, .finfo, .key, .font, .loadOpen, .schedule, .environment]) :
    c ∉ writtenUnits i := by
  revert c
  cases i <;> simp only [writtenUnits] <;> decide

end

/-- Only the instructions that can fault change CAUSE and FINFO. -/
theorem canFault_of_fault_register {i : Instr} {s t : State} {c : Component}
    (h : exec i s = .next t) (hc : ¬ Agree c s t) (hm : c ∈ [Component.cause, .finfo]) :
    CanFault i := by
  refine ((exec_changes h hc).resolve_left (not_mem_writtenUnits i ?_)).1
  exact List.mem_append_left [Component.key, .font, .loadOpen, .schedule, .environment] hm

/-- Settles O15, from the units each instruction writes. -/
theorem instructionsChangeOnlyTheirUnits : Obligations.InstructionsChangeOnlyTheirUnits := by
  intro i s t h
  have kept {c : Component} (hc : c ∈ [Component.key, .font, .loadOpen, .schedule, .environment]) :
      Agree c s t :=
    exec_agree h (not_mem_writtenUnits i (List.mem_append_right [Component.cause, .finfo] hc))
      (by revert c; decide)
  refine ⟨exec_onlyRegs h, ?i, ?pc, ?sp, ?stack, ?dt, ?st, ?mem, ?fb, ?waitx, ?faultRegisters,
    ?mode, ?draws, kept (by decide), kept (c := .font) (by decide),
    kept (c := .schedule) (by decide), kept (c := .environment) (by decide),
    kept (c := .loadOpen) (by decide)⟩
  case i => exact fun hc => of_i_mem_writtenUnits (exec_changes_unit h hc (by decide))
  case pc => exact fun hc => of_pc_mem_writtenUnits (exec_changes_unit h hc (by decide))
  case sp => exact fun hc => of_sp_mem_writtenUnits (exec_changes_unit h hc (by decide))
  case stack => exact fun hc => of_stack_mem_writtenUnits (exec_changes_unit h hc (by decide))
  case dt => exact fun hc => of_dt_mem_writtenUnits (exec_changes_unit h hc (by decide))
  case st => exact fun hc => of_st_mem_writtenUnits (exec_changes_unit h hc (by decide))
  case mem => exact fun hc => of_mem_mem_writtenUnits (exec_changes_unit h hc (by decide))
  case fb => exact fun hc => of_fb_mem_writtenUnits (exec_changes_unit h hc (by decide))
  case waitx => exact fun hc => of_waitx_mem_writtenUnits (exec_changes_unit h hc (by decide))
  case faultRegisters =>
    rintro (hc | hc)
    · exact canFault_of_fault_register (c := .cause) h hc (by decide)
    · exact canFault_of_fault_register (c := .finfo) h hc (by decide)
  case mode =>
    intro hc
    obtain hu | ⟨hi, -⟩ := exec_changes (c := .mode) h hc
    · exact .inr (of_mode_mem_writtenUnits hu)
    · exact .inl hi
  case draws =>
    rintro (hc | hc)
    · exact of_draws_mem_writtenUnits (exec_changes_unit h hc (by decide))
    · exact of_drawn_mem_writtenUnits (exec_changes_unit h hc (by decide))

end Sys2Proof.Machine
end

section
/-! MODE changes only as listed (O10). -/

namespace Sys2Proof.Machine

/-- An instruction that changes MODE is an Fx0A that begins its wait, or raises a fault. -/
theorem exec_mode {i : Instr} {s t : State} (h : exec i s = .next t) (hm : t.mode ≠ s.mode) :
    (∃ x, i = .ldVxKey x ∧ t = s.awaitKey x) ∨ t.mode = .fault ∧ t.cause ≠ .none := by
  obtain hw | ⟨-, u, c, n, -, hr, rfl⟩ := exec_next_cases h
  · have hu : .mode ∈ writtenUnits i := not_not.mp fun hu => hm (hw.frame .mode hu)
    obtain ⟨x, rfl⟩ := of_mode_mem_writtenUnits hu
    exact .inl ⟨x, rfl, (Host.Outcome.next.inj h).symm⟩
  · exact .inr ⟨rfl, hr.cause_ne_none⟩

/-- A Step that changes MODE executes an Fx0A, or raises a fault in the fetch or in execute. -/
theorem coreStep_mode {s t : State} (h : coreStep s = .next t) (hm : t.mode ≠ s.mode) :
    (s.pc.toNat ≤ 4094 ∧ t.mode = .waitKey ∧
      ∃ x, decode s.wordAtPc = .instr (.ldVxKey x) ∧ t.waitx = x) ∨
    t.mode = .fault ∧ t.cause ≠ .none := by
  obtain ⟨hpc, e⟩ | ⟨-, e⟩ | ⟨-, e⟩ := coreStep_cases s
  · rw [h, execWord] at e
    cases hd : decode s.wordAtPc with
    | instr i =>
      rw [hd] at e
      obtain ⟨x, rfl, rfl⟩ | hf := exec_mode e.symm hm
      · exact .inl ⟨hpc, rfl, x, rfl, rfl⟩
      · exact .inr hf
    | undefined w =>
      rw [hd] at e
      cases e
      exact absurd rfl hm
  all_goals
    cases h.symm.trans e
    exact .inr ⟨rfl, Cause.noConfusion⟩

/-- KEY_DOWN ends a wait and changes MODE in no other case (60_exceptions.md R176). -/
theorem State.keyDown_cases (s : State) (k : Nibble) :
    (s.mode = .waitKey ∧ s.keyDown k = (s.writeKey k true).resolveKey k) ∨
    (s.mode ≠ .waitKey ∧ s.keyDown k = s.writeKey k true) := by
  cases hm : s.mode with
  | waitKey => exact .inl ⟨rfl, by simp only [State.keyDown, State.writeKey_mode, hm]⟩
  | run => exact .inr ⟨Mode.noConfusion, by simp only [State.keyDown, State.writeKey_mode, hm]⟩
  | fault => exact .inr ⟨Mode.noConfusion, by simp only [State.keyDown, State.writeKey_mode, hm]⟩

/-- A move of the host that changes MODE is a RESET, or a KEY_DOWN that ends a wait. -/
theorem hostMove_mode {e : HostEvent} {s t : State} (h : hostMove e s = .next t)
    (hm : t.mode ≠ s.mode) :
    (e = .reset ∧ t.mode = .run) ∨ (s.mode = .waitKey ∧ t.mode = .run ∧ ∃ k, e = .keyDown k) := by
  obtain ⟨rfl, rfl⟩ | ⟨rom, -, -, rfl⟩ | ⟨-, rfl⟩ | ⟨k, rfl, rfl⟩ | ⟨k, -, rfl⟩ | ⟨-, rfl⟩ :=
    hostMove_cases h
  · exact .inl ⟨rfl, rfl⟩
  · exact absurd (s.loadEvent_frame rom .mode (by decide)) hm
  · exact absurd rfl hm
  · obtain ⟨hw, e⟩ | ⟨-, e⟩ := s.keyDown_cases k
    · exact .inr ⟨hw, by rw [e]; rfl, k, rfl⟩
    · exact absurd (by rw [e]; rfl) hm
  · exact absurd rfl hm
  · exact absurd rfl hm

/-- Settles O10, by the kinds of move. -/
theorem modeChangesOnlyAsListed : Obligations.ModeChangesOnlyAsListed := by
  intro s t h hm
  obtain ⟨hs, e⟩ | ⟨-, -, -, e⟩ | ⟨-, -, e⟩ | ⟨ev, hev, e⟩ := step_cases s
  · obtain ⟨hpc, hw, hx⟩ | hf := coreStep_mode (e.symm.trans h) hm
    · exact .inr (.inr (.inl ⟨hs, hw, hpc, hx⟩))
    · exact .inr (.inr (.inr ⟨hs, hf⟩))
  · cases h.symm.trans e
    exact absurd rfl hm
  · cases h.symm.trans e
  · obtain ⟨rfl, hr⟩ | ⟨hw, hr, k, rfl⟩ := hostMove_mode (e.symm.trans h) hm
    · exact .inl ⟨hev, hr⟩
    · exact .inr (.inl ⟨hw, hr, k, hev⟩)

end Sys2Proof.Machine
end

section
/-! No instruction reads the sound timer (O16): every operation commutes with a write of ST. -/

namespace Sys2Proof.Machine

/-- The result of an operation with ST set to `b` in the state it reached. -/
def Run.setSt {α : Type} (b : Byte) : Run α → Run α
  | .ok a s => .ok a (s.setSt b)
  | .raised s => .raised (s.setSt b)

section
variable (s : State) (b : Byte)

theorem State.skipIf_setSt (c : Bool) : (s.setSt b).skipIf c = (s.skipIf c).setSt b := by
  cases c <;> rfl

theorem State.memRead_setSt (a : Nat) : (s.setSt b).memRead a = (s.memRead a).setSt b := by
  by_cases h : a ≤ 4095
  · rw [State.memRead_ok _ h, State.memRead_ok _ h]; rfl
  · rw [State.memRead_raised _ (by omega), State.memRead_raised _ (by omega)]; rfl

theorem State.memWrite_setSt (a : Nat) (v : Byte) :
    (s.setSt b).memWrite a v = (s.memWrite a v).setSt b := by
  by_cases h : a ≤ 4095
  · rw [State.memWrite_ok _ v h, State.memWrite_ok _ v h]; rfl
  · rw [State.memWrite_raised _ v (by omega), State.memWrite_raised _ v (by omega)]; rfl

theorem State.readBytes_setSt (a n : Nat) :
    (s.setSt b).readBytes a n = (s.readBytes a n).setSt b := by
  induction n generalizing s a with
  | zero => rfl
  | succ n ih =>
    simp only [State.readBytes, State.memRead_setSt]
    cases s.memRead a with
    | raised t => rfl
    | ok v t =>
      simp only [Run.setSt, ih]
      cases t.readBytes (a + 1) n <;> rfl

theorem State.storeBytes_setSt (a : Nat) (bs : List Byte) :
    (s.setSt b).storeBytes a bs = (s.storeBytes a bs).setSt b := by
  induction bs generalizing s a with
  | nil => rfl
  | cons v bs ih =>
    simp only [State.storeBytes, State.memWrite_setSt]
    cases s.memWrite a v with
    | raised t => rfl
    | ok _ t => exact ih t (a + 1)

theorem State.loadBytes_setSt (r a n : Nat) :
    (s.setSt b).loadBytes r a n = (s.loadBytes r a n).setSt b := by
  induction n generalizing s r a with
  | zero => rfl
  | succ n ih =>
    simp only [State.loadBytes, State.memRead_setSt]
    cases s.memRead a with
    | raised t => rfl
    | ok v t => exact ih (t.writeV (BitVec.ofNat 4 r) v) (r + 1) (a + 1)

theorem State.push_setSt (w : Word) : (s.setSt b).push w = (s.push w).setSt b := by
  by_cases h : s.sp.toNat < 16
  · rw [State.push_ok s w h, State.push_ok (s.setSt b) w h]; rfl
  · rw [State.push_raised s w (by omega), State.push_raised (s.setSt b) w (Nat.not_lt.mp h)]; rfl

theorem State.pop_setSt : (s.setSt b).pop = s.pop.setSt b := by
  by_cases h : 1 ≤ s.sp.toNat ∧ s.sp.toNat ≤ 16
  · rw [s.pop_ok h.1 h.2, (s.setSt b).pop_ok h.1 h.2]; rfl
  · have h' : s.sp.toNat = 0 ∨ 16 < s.sp.toNat := by omega
    rw [s.pop_raised h', (s.setSt b).pop_raised h']; rfl

theorem State.keyOperand_setSt (x : Nibble) :
    (s.setSt b).keyOperand x = (s.keyOperand x).setSt b := by
  by_cases h : (s.readV x).toNat ≤ 15
  · rw [s.keyOperand_ok x h, (s.setSt b).keyOperand_ok x h]; rfl
  · rw [s.keyOperand_raised x (by omega), (s.setSt b).keyOperand_raised x (Nat.not_le.mp h)]; rfl

/-- The outcome of a run that differs from `r` by a write of ST. -/
theorem Run.outcome_of_eq_setSt {q r : Run Unit} (h : q = r.setSt b) :
    q.outcome = .next (r.state.setSt b) := by
  rw [h]
  cases r <;> rfl

/-- An instruction does the same whatever ST holds; only ST itself may differ afterwards. -/
theorem exec_setSt (i : Instr) :
    ∃ t c, exec i s = .next t ∧ exec i (s.setSt b) = .next (t.setSt c) := by
  cases i with
  | ret =>
    simp only [exec, execRet, State.pop_setSt]
    cases s.pop <;> exact ⟨_, b, rfl, rfl⟩
  | call nnn =>
    simp only [exec, execCall, State.setSt_pc, State.push_setSt]
    cases s.push s.pc <;> exact ⟨_, b, rfl, rfl⟩
  | drw x y n =>
    have ha : (s.setSt b).effAddr 0 = s.effAddr 0 := rfl
    simp only [exec, execDrw, ha, State.readBytes_setSt]
    cases s.readBytes (s.effAddr 0) n.toNat <;> exact ⟨_, b, rfl, rfl⟩
  | skp x =>
    simp only [exec, execSkp, State.keyOperand_setSt]
    cases s.keyOperand x with
    | raised t => exact ⟨_, b, rfl, rfl⟩
    | ok k t => exact ⟨_, b, rfl, congrArg _ (t.skipIf_setSt b (t.readKey k))⟩
  | sknp x =>
    simp only [exec, execSknp, State.keyOperand_setSt]
    cases s.keyOperand x with
    | raised t => exact ⟨_, b, rfl, rfl⟩
    | ok k t => exact ⟨_, b, rfl, congrArg _ (t.skipIf_setSt b (!t.readKey k))⟩
  | seImm _ _ | sneImm _ _ | seReg _ _ | sneReg _ _ =>
    exact ⟨_, b, rfl, congrArg _ (s.skipIf_setSt b _)⟩
  | ldBcd x | storeRegs x =>
    exact ⟨_, b, rfl, Run.outcome_of_eq_setSt b (s.storeBytes_setSt b _ _)⟩
  | loadRegs x =>
    exact ⟨_, b, rfl, Run.outcome_of_eq_setSt b (s.loadBytes_setSt b _ _ _)⟩
  | ldStVx x => exact ⟨_, s.readV x, rfl, rfl⟩
  | _ => exact ⟨_, b, rfl, rfl⟩

end

/-- Settles O16: the two runs differ by a write of ST. -/
theorem noInstructionReadsTheSoundTimer : Obligations.NoInstructionReadsTheSoundTimer := by
  intro i s b
  obtain ⟨t, c, h, hb⟩ := exec_setSt s b i
  exact ⟨t, t.setSt c, h, hb, t.setSt_frame c⟩

end Sys2Proof.Machine
end

section
/-! The reset state (O55), the call stack (O20), and the faults of 00EE and 2nnn (O26, O28). -/

namespace Sys2Proof.Machine

/-- RESET leaves the tabled state for the machine's own FONT. -/
theorem State.resetEvent_afterReset (s : State) : AfterReset s.font s.resetEvent where
  v r := by simp [State.readV, State.reset]
  i := rfl
  pc := rfl
  sp := rfl
  stack k := by simp [State.slot, State.reset]
  dt := rfl
  st := rfl
  fontBytes a h := dif_pos h
  zeroBytes a h _ := dif_neg (Nat.not_lt.mpr h)
  fb x y := Screen.pixel_clear x y
  key k := by simp [State.readKey, State.reset]
  mode := rfl
  waitx := rfl
  cause := rfl
  finfo := rfl

/-- Settles O55. -/
theorem resetGivesTheTabledState : Obligations.ResetGivesTheTabledState :=
  ⟨fun s => ⟨s.resetEvent, rfl, rfl, s.resetEvent_afterReset⟩, State.reset.resetEvent_afterReset⟩

theorem toNat_add_one_of_lt {b : Byte} (h : b.toNat < 16) : (b + 1).toNat = b.toNat + 1 := by
  bv_omega

/-- After a push that completes, the slot a pop reads is the one just filled. -/
theorem State.pop_pushed (s : State) (w : Word) (h : s.sp.toNat < 16) :
    ((s.setSlot (s.sp.setWidth 4) w).setSp (s.sp + 1)).pop =
      .ok w (((s.setSlot (s.sp.setWidth 4) w).setSp (s.sp + 1)).setSp s.sp) := by
  have hsp := toNat_add_one_of_lt h
  have hback : s.sp + 1 - 1 = s.sp := BitVec.add_sub_cancel s.sp 1
  have hslot : (s.setSlot (s.sp.setWidth 4) w).slot (s.sp.setWidth 4) = w :=
    (s.slot_setSlot _ _ w).trans (if_pos rfl)
  rw [State.pop_ok _ (show 1 ≤ (s.sp + 1).toNat by omega) (show (s.sp + 1).toNat ≤ 16 by omega)]
  simp only [State.setSp_sp, State.setSp_slot, hback, hslot]

/-- A push leaves every slot alone but the one at the old SP. -/
theorem State.slot_pushed_ne (s : State) (w : Word) (h : s.sp.toNat < 16) {k : Nibble}
    (hk : k.toNat ≠ s.sp.toNat) : (s.setSlot (s.sp.setWidth 4) w).slot k = s.slot k := by
  refine (s.slot_setSlot _ k w).trans (if_neg ?_)
  rintro rfl
  exact hk (by rw [BitVec.toNat_setWidth, Nat.mod_eq_of_lt h])

/-- Settles O20: the slot a push fills is the one the next pop reads. -/
theorem callStackIsLastInFirstOut : Obligations.CallStackIsLastInFirstOut := by
  intro s w
  refine ⟨fun h => ?_, fun h => ?_⟩
  · exact ⟨_, s.push_ok w h, toNat_add_one_of_lt h, fun k hk => s.slot_pushed_ne w h hk, _,
      s.pop_pushed w h, rfl⟩
  · exact ⟨_, s.push_raised w h, s.raise_faulted .stackOverflow (by decide), fun _ => rfl, rfl⟩

/-- Settles O26: the pointer is decremented before it is checked. -/
theorem retOnAnEmptyStackFaults : Obligations.RetOnAnEmptyStackFaults := by
  intro s h
  refine ⟨_, exec_ret_raised s h, State.raise_faulted _ _ (by decide), rfl, fun h0 => ?_, ?_⟩
  · show s.sp - 1 = 0xFF
    rw [h0]
    rfl
  · exact ((s.setSp_frame _).mono (by simp)).trans ((State.raise_frame _ _ _).mono (by simp))

/-- Settles O28: a push at depth 16 only raises. -/
theorem seventeenthCallFaults : Obligations.SeventeenthCallFaults := by
  intro nnn s h
  exact ⟨_, exec_call_raised nnn s h, s.raise_faulted .stackOverflow (by decide), s.raise_frame _ _⟩

end Sys2Proof.Machine
end

section
/-! The invariant: RESET meets it (O12) and every move keeps it (O11). -/

namespace Sys2Proof.Machine

/-! ### The parts of the invariant, outside a fault -/

/-- The fault record depends on MODE, CAUSE and FINFO alone. -/
theorem State.faultRecordOk_congr {s t : State} (hm : t.mode = s.mode) (hc : t.cause = s.cause)
    (hf : t.finfo = s.finfo) (h : s.faultRecordOk) : t.faultRecordOk := by
  unfold State.faultRecordOk
  rw [hm, hc, hf]
  exact h

/-- Outside FAULT the fault record is empty. -/
theorem State.faultRecordOk_of_ne_fault {s : State} (hm : s.mode ≠ .fault) :
    s.faultRecordOk ↔ s.cause = .none ∧ s.finfo = 0 := by
  unfold State.faultRecordOk
  cases h : s.mode with
  | run => rfl
  | waitKey => rfl
  | fault => exact absurd h hm

/-- Outside FAULT the stack pointer is at most 16. -/
theorem State.spOk.le {s : State} (h : s.spOk) (hm : s.mode ≠ .fault) : s.sp.toNat ≤ 16 :=
  h.resolve_right fun hf => hm hf.1

/-- What does not touch the components the invariant speaks of keeps it, as long as memory stays
canonical. -/
theorem State.Inv.of_frame {cs : List Component} {s t : State} (h : s.Inv) (hf : SameExcept cs s t)
    (hw : t.memWf = true)
    (hcs : ∀ c ∈ [Component.mode, .cause, .finfo, .sp, .pc, .stack, .loadOpen], c ∉ cs) :
    t.Inv := by
  have hm : t.mode = s.mode := hf .mode (hcs _ (by decide))
  have hc : t.cause = s.cause := hf .cause (hcs _ (by decide))
  have hsp : t.sp = s.sp := hf .sp (hcs _ (by decide))
  have hpc : t.pc = s.pc := hf .pc (hcs _ (by decide))
  have hst : ∀ k, t.slot k = s.slot k := hf .stack (hcs _ (by decide))
  have hl : t.loadOpen = s.loadOpen := hf .loadOpen (hcs _ (by decide))
  have hi : t.finfo = s.finfo := hf .finfo (hcs _ (by decide))
  refine ⟨hw, State.faultRecordOk_congr hm hc hi h.faultRecord, ?_, ?_, ?_⟩
  · rw [State.spOk, hm, hc, hsp]
    exact h.sp
  · simpa only [State.pcOk, hpc, hst] using h.pc
  · simpa only [State.loadOpenOk, hl, hm] using h.loadOpen

/-- The account of turns is no part of the invariant. -/
theorem State.endTurn_inv {s : State} (h : s.Inv) : s.endTurn.Inv :=
  h.of_frame s.endTurn_frame h.memWf (by decide)

/-! ### RESET -/

theorem State.resetEvent_inv (s : State) : s.resetEvent.Inv where
  memWf := Memory.wf_nil
  faultRecord := ⟨rfl, rfl⟩
  sp := .inl (Nat.zero_le 16)
  pc := ⟨Nat.zero_le 4350, fun k => by rw [s.resetEvent_afterReset.stack k]; decide⟩
  loadOpen _ := rfl

/-- Settles O12. -/
theorem resetMeetsTheInvariant : Obligations.ResetMeetsTheInvariant := by
  refine ⟨State.reset.resetEvent_inv, fun s t h => ?_⟩
  cases h
  exact s.resetEvent_inv

/-! ### The host's moves -/

/-- An admitted LOAD stores below 4096 and sets PC to 512. -/
theorem State.loadEvent_inv {s : State} (h : s.Inv) (rom : List Byte) : (s.loadEvent rom).Inv := by
  obtain ⟨hfit, e⟩ | ⟨-, e⟩ := s.loadEvent_cases rom
  · obtain ⟨hw, hframe, -⟩ := State.putBytes_spec (a := 512) h.memWf
      (show 512 + rom.length ≤ 4096 by omega)
    have hi : (s.putBytes 512 rom).Inv := h.of_frame hframe hw (by decide)
    have hpc : (512 : Word).toNat ≤ 4350 := by decide
    rw [e]
    exact ⟨hi.memWf, hi.faultRecord, hi.sp, ⟨hpc, hi.pc.2⟩, hi.loadOpen⟩
  · rw [e]
    exact h

theorem State.tick_inv {s : State} (h : s.Inv) : s.tick.Inv := by
  have hdt : (s.setDt (tickDown s.dt)).Inv := h.of_frame (s.setDt_frame _) h.memWf (by decide)
  exact hdt.of_frame (State.setSt_frame _ (tickDown s.st)) h.memWf (by decide)

theorem State.writeKey_inv {s : State} (h : s.Inv) (k : Nibble) (b : Bool) : (s.writeKey k b).Inv :=
  h.of_frame (s.writeKey_frame k b) h.memWf (by decide)

/-- The end of a wait: outside FAULT the fault record is empty, so RUN may follow. -/
theorem State.resolveKey_inv {s : State} (h : s.Inv) (hm : s.mode = .waitKey) (k : Nibble) :
    (s.resolveKey k).Inv := by
  have hne : s.mode ≠ .fault := by rw [hm]; exact Mode.noConfusion
  exact ⟨h.memWf, (State.faultRecordOk_of_ne_fault hne).mp h.faultRecord, .inl (h.sp.le hne), h.pc,
    fun _ => rfl⟩

theorem State.keyDown_inv {s : State} (h : s.Inv) (k : Nibble) : (s.keyDown k).Inv := by
  have hk : (s.writeKey k true).Inv := State.writeKey_inv h k true
  obtain ⟨hm, e⟩ | ⟨-, e⟩ := s.keyDown_cases k
  · rw [e]
    exact State.resolveKey_inv hk hm k
  · rw [e]
    exact hk

/-- Every move of the host keeps the invariant. -/
theorem hostMove_inv {e : HostEvent} {s t : State} (h : s.Inv) (hs : hostMove e s = .next t) :
    t.Inv := by
  obtain ⟨-, rfl⟩ | ⟨rom, -, -, rfl⟩ | ⟨-, rfl⟩ | ⟨k, -, rfl⟩ | ⟨k, -, rfl⟩ | ⟨-, rfl⟩ :=
    hostMove_cases hs
  · exact s.resetEvent_inv
  · exact State.loadEvent_inv h rom
  · exact State.tick_inv h
  · exact State.keyDown_inv h k
  · exact State.writeKey_inv h k false
  · exact h

/-! ### A Step of the core -/

/-- The state in which the invariant lets an instruction begin: RUN, with PC just advanced. -/
structure State.ReadyToExecute (s : State) : Prop where
  memWf : s.memWf = true
  mode : s.mode = .run
  cause : s.cause = .none
  finfo : s.finfo = 0
  sp : s.sp.toNat ≤ 16
  pc : s.pc.toNat ≤ 4096
  slots : ∀ k, (s.slot k).toNat ≤ 4096
  loadOpen : s.loadOpen = false

/-- A fetch that succeeds leaves such a state. -/
theorem State.Inv.readyToExecute {s : State} (h : s.Inv) (hm : s.mode = .run)
    (hpc : s.pc.toNat ≤ 4094) : s.closeLoad.advancePc.ReadyToExecute := by
  have hne : s.mode ≠ .fault := by rw [hm]; exact Mode.noConfusion
  obtain ⟨hc, hf⟩ := (State.faultRecordOk_of_ne_fault hne).mp h.faultRecord
  have hadv : (s.pc + 2).toNat ≤ 4096 := by bv_omega
  exact ⟨h.memWf, hm, hc, hf, h.sp.le hne, hadv, h.pc.2, rfl⟩

/-- A state from which an instruction may begin meets the invariant, so an undefined word keeps
it. -/
theorem State.ReadyToExecute.inv {s : State} (h : s.ReadyToExecute) : s.Inv where
  memWf := h.memWf
  faultRecord := (State.faultRecordOk_of_ne_fault (by rw [h.mode]; exact Mode.noConfusion)).mpr
    ⟨h.cause, h.finfo⟩
  sp := .inl h.sp
  pc := ⟨h.pc.trans (by decide), h.slots⟩
  loadOpen _ := h.mode

section
variable {i : Instr} {s t : State}

theorem exec_memWf (h : exec i s = .next t) (hw : s.memWf = true) : t.memWf = true := by
  obtain hu | ⟨-, u, c, n, hu, -, rfl⟩ := exec_next_cases h
  · exact hu.memWf hw
  · exact hu.memWf hw

/-- The fault record stays empty where the instruction completes, and is a row where it raises. -/
theorem exec_faultRecordOk (h : exec i s = .next t) (hs : s.ReadyToExecute) : t.faultRecordOk := by
  obtain hu | ⟨-, u, c, n, -, hr, rfl⟩ := exec_next_cases h
  · have hc : t.cause = s.cause := hu.frame .cause (not_mem_writtenUnits i (by decide))
    have hf : t.finfo = s.finfo := hu.frame .finfo (not_mem_writtenUnits i (by decide))
    have hm : t.mode ≠ .fault := by
      intro ht
      have hsm : t.mode ≠ s.mode := by rw [ht, hs.mode]; exact Mode.noConfusion
      obtain ⟨x, -, rfl⟩ | ⟨-, hcause⟩ := exec_mode h hsm
      · cases ht
      · exact hcause (hc.trans hs.cause)
    exact (State.faultRecordOk_of_ne_fault hm).mpr ⟨hc.trans hs.cause, hf.trans hs.finfo⟩
  · exact u.raise_faultRecordOk hr

/-- A RET from a state the invariant allows: the stack is empty and the underflow is raised, or the
top slot is popped. -/
theorem exec_ret_inversion (h : exec .ret s = .next t) (hs : s.ReadyToExecute) :
    (s.sp = 0 ∧ t = (s.setSp (s.sp - 1)).raise .stackUnderflow 0) ∨
    (1 ≤ s.sp.toNat ∧ t = (s.setSp (s.sp - 1)).setPc (s.slot ((s.sp - 1).setWidth 4))) := by
  by_cases h0 : s.sp.toNat = 0
  · cases h.symm.trans (exec_ret_raised s (.inl h0))
    exact .inl ⟨BitVec.eq_of_toNat_eq h0, rfl⟩
  · cases h.symm.trans (exec_ret_ok s (by omega) hs.sp)
    exact .inr ⟨by omega, rfl⟩

/-- A CALL pushes and jumps, or raises the overflow where it stands. -/
theorem exec_call_inversion {nnn : Addr12} (h : exec (.call nnn) s = .next t) :
    (s.sp.toNat < 16 ∧
      t = ((s.setSlot (s.sp.setWidth 4) s.pc).setSp (s.sp + 1)).setPc (zextAddr nnn)) ∨
    t = s.raise .stackOverflow 0 := by
  by_cases hlt : s.sp.toNat < 16
  · cases h.symm.trans (exec_call_ok nnn s hlt)
    exact .inl ⟨hlt, rfl⟩
  · cases h.symm.trans (exec_call_raised nnn s (by omega))
    exact .inr rfl

/-- SP moves only by 00EE and 2nnn, within 0 to 16 but for the underflow (10_state.md R19, R20). -/
theorem exec_spOk (h : exec i s = .next t) (hs : s.ReadyToExecute) : t.spOk := by
  have hle := hs.sp
  by_cases hu : .sp ∈ writtenUnits i
  · obtain rfl | ⟨nnn, rfl⟩ := of_sp_mem_writtenUnits hu
    · obtain ⟨h0, rfl⟩ | ⟨h1, rfl⟩ := exec_ret_inversion h hs
      · exact .inr ⟨rfl, rfl, show s.sp - 1 = 0xFF by rw [h0]; rfl⟩
      · exact .inl (show (s.sp - 1).toNat ≤ 16 by bv_omega)
    · obtain ⟨hlt, rfl⟩ | rfl := exec_call_inversion h
      · exact .inl (show (s.sp + 1).toNat ≤ 16 by bv_omega)
      · exact .inl hle
  · have hsp : t.sp = s.sp := exec_agree h hu (by decide)
    exact .inl (hsp ▸ hle)

/-- A skip adds at most 2. -/
theorem State.skipIf_pc_le (s : State) (c : Bool) (h : s.pc.toNat ≤ 4096) :
    (s.skipIf c).pc.toNat ≤ 4350 := by
  have hadv : (s.pc + 2).toNat ≤ 4098 := by bv_omega
  cases c
  · exact h.trans (by decide)
  · exact hadv.trans (by decide)

theorem exec_keySkip_pc_le {x : Nibble} (hi : i = .skp x ∨ i = .sknp x) (h : exec i s = .next t)
    (hs : s.ReadyToExecute) : t.pc.toNat ≤ 4350 := by
  obtain ⟨c, e⟩ | ⟨-, e⟩ := exec_keySkip_cases hi s
  · cases h.symm.trans e
    exact s.skipIf_pc_le c hs.pc
  · cases h.symm.trans e
    exact hs.pc.trans (by decide)

theorem zextAddr_toNat_le (nnn : Addr12) : (zextAddr nnn).toNat ≤ 4095 := by
  unfold zextAddr
  bv_omega

/-- The target of Bnnn, the farthest an instruction can send PC (10_state.md R15). -/
theorem zextAddr_add_zextByte_toNat_le (nnn : Addr12) (b : Byte) :
    (zextAddr nnn + zextByte b).toNat ≤ 4350 := by
  unfold zextAddr zextByte
  bv_omega

/-- The bound of 10_state.md R15: PC is a 12-bit address, at most with a byte added, a stacked
address, or moved on by a skip. -/
theorem exec_pc_le (h : exec i s = .next t) (hs : s.ReadyToExecute) : t.pc.toNat ≤ 4350 := by
  have hpc : s.pc.toNat ≤ 4350 := hs.pc.trans (by decide)
  cases i with
  | ret =>
    obtain ⟨-, rfl⟩ | ⟨-, rfl⟩ := exec_ret_inversion h hs
    · exact hpc
    · exact (hs.slots _).trans (by decide)
  | call nnn =>
    obtain ⟨-, rfl⟩ | rfl := exec_call_inversion h
    · exact (zextAddr_toNat_le nnn).trans (by decide)
    · exact hpc
  | jp nnn =>
    cases h
    exact (zextAddr_toNat_le nnn).trans (by decide)
  | jpV0 nnn =>
    cases h
    exact zextAddr_add_zextByte_toNat_le nnn _
  | seImm _ _ | sneImm _ _ | seReg _ _ | sneReg _ _ =>
    cases h
    exact s.skipIf_pc_le _ hs.pc
  | skp x => exact exec_keySkip_pc_le (.inl rfl) h hs
  | sknp x => exact exec_keySkip_pc_le (.inr rfl) h hs
  | _ =>
    have hkept : t.pc = s.pc := exec_agree (c := .pc) h (by simp [writtenUnits]) (by decide)
    exact hkept ▸ hpc

/-- Only a CALL that completes fills a slot, with the address after it. -/
theorem exec_slots_le (h : exec i s = .next t) (hs : s.ReadyToExecute) (k : Nibble) :
    (t.slot k).toNat ≤ 4096 := by
  by_cases hu : .stack ∈ writtenUnits i
  · obtain ⟨nnn, rfl⟩ := of_stack_mem_writtenUnits hu
    obtain ⟨-, rfl⟩ | rfl := exec_call_inversion h
    · show ((s.setSlot (s.sp.setWidth 4) s.pc).slot k).toNat ≤ 4096
      rw [State.slot_setSlot]
      split
      · exact hs.pc
      · exact hs.slots k
    · exact hs.slots k
  · have hkept : t.slot k = s.slot k := exec_agree (c := .stack) h hu (by decide) k
    exact hkept ▸ hs.slots k

/-- Every instruction keeps the invariant. -/
theorem exec_inv (h : exec i s = .next t) (hs : s.ReadyToExecute) : t.Inv where
  memWf := exec_memWf h hs.memWf
  faultRecord := exec_faultRecordOk h hs
  sp := exec_spOk h hs
  pc := ⟨exec_pc_le h hs, exec_slots_le h hs⟩
  loadOpen hl := by
    have hkept : t.loadOpen = s.loadOpen :=
      exec_agree (c := .loadOpen) h (not_mem_writtenUnits i (by decide)) (by decide)
    rw [hkept, hs.loadOpen] at hl
    cases hl

end

/-- A fetch that raises keeps the invariant: its address is a row of the cause table. -/
theorem State.Inv.fetch_raised {s : State} (h : s.Inv) (hm : s.mode = .run) {n : Nat}
    (h1 : 4096 ≤ n) (h2 : n ≤ 65550) : (s.closeLoad.raise .memOutOfBounds n).Inv where
  memWf := h.memWf
  faultRecord := State.raise_faultRecordOk _ ⟨h1, h2⟩
  sp := .inl (h.sp.le (by rw [hm]; exact Mode.noConfusion))
  pc := h.pc
  loadOpen := Bool.noConfusion

/-- Every Step of the core keeps the invariant. -/
theorem coreStep_inv {s t : State} (h : s.Inv) (hm : s.mode = .run) (hs : coreStep s = .next t) :
    t.Inv := by
  obtain ⟨hpc, e⟩ | ⟨hpc, e⟩ | ⟨hpc, e⟩ := coreStep_cases s
  · have hr := h.readyToExecute hm hpc
    rw [hs, execWord] at e
    cases hd : decode s.wordAtPc with
    | instr i =>
      rw [hd] at e
      exact exec_inv e.symm hr
    | undefined w =>
      rw [hd] at e
      cases e
      exact hr.inv
  · cases hs.symm.trans e
    exact h.fetch_raised hm (by decide) (by decide)
  · cases hs.symm.trans e
    exact h.fetch_raised hm hpc (h.pc.1.trans (by decide))

/-- Settles O11, by the kinds of move. -/
theorem everyMoveKeepsTheInvariant : Obligations.EveryMoveKeepsTheInvariant := by
  intro s t h hs
  have hi : s.endTurn.Inv := State.endTurn_inv h
  obtain ⟨hstep, e⟩ | ⟨-, -, -, e⟩ | ⟨-, -, e⟩ | ⟨ev, -, e⟩ := step_cases s
  · exact coreStep_inv hi hstep.2 (e.symm.trans hs)
  · cases hs.symm.trans e
    exact hi
  · cases hs.symm.trans e
  · exact hostMove_inv hi (e.symm.trans hs)

end Sys2Proof.Machine
end

section
/-! The access rules of memory (20_memory.md R46, R47): one byte written and read back, and the word
read, which is big-endian. -/

namespace Sys2Proof.Machine

/-- The first byte of a word is its high byte (20_memory.md R43). -/
theorem toNat_byte_append_byte (hi lo : Byte) :
    (hi ++ lo : Word).toNat = 256 * hi.toNat + lo.toNat := by
  rw [BitVec.toNat_append, ← Nat.shiftLeft_add_eq_or_of_lt lo.isLt, Nat.shiftLeft_eq,
    Nat.mul_comm]

/-- A byte written in range is the byte the next read of its address gives. -/
theorem State.memRead_putByte_same {s : State} {a : Nat} (v : Byte) (hw : s.memWf = true)
    (ha : a ≤ 4095) : (s.putByte a v).memRead a = .ok v (s.putByte a v) := by
  rw [State.memRead_ok _ ha, State.putByte_byteAt_same a v hw]

/-- Settles O18, by the two sides of the bound 4095. -/
theorem writtenByteReadsBack : Obligations.WrittenByteReadsBack := by
  intro s a v hw
  refine ⟨fun ha => ?_, fun ha => ?_⟩
  · exact ⟨s.memRead_ok ha, s.putByte a v, s.memWrite_ok v ha, State.memRead_putByte_same v hw ha,
      fun _ hq => s.putByte_byteAt_ne v hq, s.putByte_frame a v⟩
  · exact ⟨s.memRead_raised ha, s.memWrite_raised v ha, s.raise_frame .memOutOfBounds a⟩

/-- Settles O19, by the three cases of the word read. -/
theorem wordReadIsBigEndian : Obligations.WordReadIsBigEndian := by
  intro s a
  obtain ⟨ha, h⟩ | ⟨ha, h⟩ | ⟨ha, h⟩ := s.memReadWord_cases a
  · exact ⟨fun _ => ⟨_, h, toNat_byte_append_byte _ _⟩, fun _ => by omega, fun _ => by omega⟩
  · exact ⟨fun _ => by omega, fun _ => h, fun _ => by omega⟩
  · exact ⟨fun _ => by omega, fun _ => by omega, fun _ => h⟩

end Sys2Proof.Machine
end

section
/-! The words of the machine by their digits (30_encoding.md R61): a word is the join of its fields, and
a mask of the opcode table compares the digits it keeps. -/

namespace Sys2Proof

/-- `op = w[15:12]`, the digit every row of the opcode table fixes (30_encoding.md R61). -/
def fieldOp (w : Word) : Nibble := w.extractLsb' 12 4

section
variable (w p : Word)

theorem fieldOp_append (op : Nibble) (r : Addr12) : fieldOp (op ++ r) = op :=
  BitVec.extractLsb'_append_eq_left

/-! ### A word is the join of its fields -/

theorem encNnn_fields : encNnn (fieldOp w) (fieldNnn w) = w :=
  (BitVec.extractLsb'_append_extractLsb'_eq_extractLsb' rfl).trans BitVec.extractLsb'_eq_self

theorem fieldX_append_fieldKk : (fieldX w ++ fieldKk w : Addr12) = fieldNnn w :=
  BitVec.extractLsb'_append_extractLsb'_eq_extractLsb' rfl

theorem fieldY_append_fieldN : (fieldY w ++ fieldN w : Byte) = fieldKk w :=
  BitVec.extractLsb'_append_extractLsb'_eq_extractLsb' rfl

theorem encXkk_fields : encXkk (fieldOp w) (fieldX w) (fieldKk w) = w := by
  rw [encXkk, fieldX_append_fieldKk]
  exact encNnn_fields w

theorem encX_fields : encX (fieldOp w) (fieldX w) (fieldKk w) = w := encXkk_fields w

theorem encXyn_fields : encXyn (fieldOp w) (fieldX w) (fieldY w) (fieldN w) = w := by
  rw [encXyn, fieldY_append_fieldN]
  exact encXkk_fields w

/-- The two bytes of a word, the first the high one, make the word again (20_memory.md R43). -/
theorem wordOfBytes_highByte_lowByte : wordOfBytes (highByte w) (lowByte w) = w :=
  (BitVec.extractLsb'_append_extractLsb'_eq_extractLsb' rfl).trans BitVec.extractLsb'_eq_self

/-! ### What a mask compares -/

theorem and_F000_fields : w &&& 0xF000 = encNnn (fieldOp w) 0 := by
  conv_lhs => rw [← encNnn_fields w]
  exact and_F000 _ _

theorem and_F00F_fields : w &&& 0xF00F = encXyn (fieldOp w) 0 0 (fieldN w) := by
  conv_lhs => rw [← encXyn_fields w]
  exact encXyn_and_F00F _ _ _ _

theorem and_F0FF_fields : w &&& 0xF0FF = encX (fieldOp w) 0 (fieldKk w) := by
  conv_lhs => rw [← encX_fields w]
  exact encX_and_F0FF _ _ _

theorem and_FFFF_eq : w &&& 0xFFFF = w := BitVec.and_allOnes

variable {w p}

/-- Under the mask F000 a word meets a pattern when their top digits agree. -/
theorem and_F000_eq_iff (hp : p &&& 0xF000 = p) : w &&& 0xF000 = p ↔ fieldOp w = fieldOp p := by
  constructor
  · rintro rfl
    rw [and_F000_fields, encNnn, fieldOp_append]
  · intro h
    rw [← hp, and_F000_fields, and_F000_fields, h]

/-- Under the mask F00F a word meets a pattern when their top and bottom digits agree. -/
theorem and_F00F_eq_iff (hp : p &&& 0xF00F = p) :
    w &&& 0xF00F = p ↔ fieldOp w = fieldOp p ∧ fieldN w = fieldN p := by
  constructor
  · rintro rfl
    rw [and_F00F_fields, fieldN_encXyn, encXyn, fieldOp_append]
    exact ⟨rfl, rfl⟩
  · rintro ⟨hop, hn⟩
    rw [← hp, and_F00F_fields, and_F00F_fields, hop, hn]

/-- Under the mask F0FF a word meets a pattern when their top digits and low bytes agree. -/
theorem and_F0FF_eq_iff (hp : p &&& 0xF0FF = p) :
    w &&& 0xF0FF = p ↔ fieldOp w = fieldOp p ∧ fieldKk w = fieldKk p := by
  constructor
  · rintro rfl
    rw [and_F0FF_fields, encX, fieldOp_append]
    exact ⟨rfl, (fieldKk_encXkk _ _ _).symm⟩
  · rintro ⟨hop, hkk⟩
    rw [← hp, and_F0FF_fields, and_F0FF_fields, hop, hkk]

end

end Sys2Proof
end

section
/-! Encode, then decode (30_encoding.md R62, R70): the row of each instruction selects its word. -/

namespace Sys2Proof

/-- The family of the rows, for every instruction. -/
theorem tableRow : ∀ i : Instr, Laws.TableRow.Statement i
  | .cls => Laws.TableRow.cls
  | .ret => Laws.TableRow.ret
  | .jp nnn => Laws.TableRow.jp nnn
  | .call nnn => Laws.TableRow.call nnn
  | .seImm x kk => Laws.TableRow.seImm x kk
  | .sneImm x kk => Laws.TableRow.sneImm x kk
  | .seReg x y => Laws.TableRow.seReg x y
  | .ldImm x kk => Laws.TableRow.ldImm x kk
  | .addImm x kk => Laws.TableRow.addImm x kk
  | .ldReg x y => Laws.TableRow.ldReg x y
  | .orReg x y => Laws.TableRow.orReg x y
  | .andReg x y => Laws.TableRow.andReg x y
  | .xorReg x y => Laws.TableRow.xorReg x y
  | .addReg x y => Laws.TableRow.addReg x y
  | .subReg x y => Laws.TableRow.subReg x y
  | .shr x y => Laws.TableRow.shr x y
  | .subnReg x y => Laws.TableRow.subnReg x y
  | .shl x y => Laws.TableRow.shl x y
  | .sneReg x y => Laws.TableRow.sneReg x y
  | .ldI nnn => Laws.TableRow.ldI nnn
  | .jpV0 nnn => Laws.TableRow.jpV0 nnn
  | .rnd x kk => Laws.TableRow.rnd x kk
  | .drw x y n => Laws.TableRow.drw x y n
  | .skp x => Laws.TableRow.skp x
  | .sknp x => Laws.TableRow.sknp x
  | .ldVxDt x => Laws.TableRow.ldVxDt x
  | .ldVxKey x => Laws.TableRow.ldVxKey x
  | .ldDtVx x => Laws.TableRow.ldDtVx x
  | .ldStVx x => Laws.TableRow.ldStVx x
  | .addI x => Laws.TableRow.addI x
  | .ldGlyph x => Laws.TableRow.ldGlyph x
  | .ldBcd x => Laws.TableRow.ldBcd x
  | .storeRegs x => Laws.TableRow.storeRegs x
  | .loadRegs x => Laws.TableRow.loadRegs x

theorem decode_encode (i : Instr) : decode (encode i) = .instr i := by
  obtain ⟨r, hr, hs, hb⟩ := tableRow i
  rw [decode_of_row hr hs, hb]

/-- The decoder takes the first two bytes for one word and hands back the rest (R60). -/
theorem decodeBytes_bytes_append (w : Word) (rest : List Byte) :
    decodeBytes ([highByte w, lowByte w] ++ rest) = .ok (decode w, rest) := by
  simp only [List.cons_append, List.nil_append, decodeBytes, wordOfBytes_highByte_lowByte]

/-- Settles O1, by the row of the opcode table that selects the instruction's word. -/
theorem decodingAnEncodedInstructionGivesItBack :
    Obligations.DecodingAnEncodedInstructionGivesItBack := by
  intro i rest
  refine ⟨decode_encode i, ?_⟩
  rw [encodeBytes, decodeBytes_bytes_append, decode_encode]

end Sys2Proof
end

section
/-! Decode, then encode (30_encoding.md R61, R62): a word that a row selects is the word of the
instruction the row builds, format by format. -/

namespace Sys2Proof

/-- The encoder gives back every word the row selects. -/
def OpRow.Rebuilds (r : OpRow) : Prop := ∀ w, r.selects w = true → encode (r.build w) = w

theorem OpRow.selects_iff (r : OpRow) (w : Word) : r.selects w = true ↔ w &&& r.mask = r.pattern :=
  beq_iff_eq

section
variable {p : Word}

theorem OpRow.fixed_rebuilds {i : Instr} (hi : encode i = p) : (OpRow.fixed p i).Rebuilds := by
  intro w h
  exact hi.trans (((OpRow.selects_iff _ w).mp h).symm.trans (and_FFFF_eq w))

theorem OpRow.nnn_rebuilds {f : Addr12 → Instr} (hp : p &&& 0xF000 = p)
    (hf : ∀ nnn, encode (f nnn) = encNnn (fieldOp p) nnn) : (OpRow.nnn p f).Rebuilds := by
  intro w h
  have hop := (and_F000_eq_iff hp).mp ((OpRow.selects_iff _ w).mp h)
  rw [OpRow.nnn, hf, ← hop, encNnn_fields]

theorem OpRow.xkk_rebuilds {f : Nibble → Byte → Instr} (hp : p &&& 0xF000 = p)
    (hf : ∀ x kk, encode (f x kk) = encXkk (fieldOp p) x kk) : (OpRow.xkk p f).Rebuilds := by
  intro w h
  have hop := (and_F000_eq_iff hp).mp ((OpRow.selects_iff _ w).mp h)
  rw [OpRow.xkk, hf, ← hop, encXkk_fields]

theorem OpRow.xyn_rebuilds {f : Nibble → Nibble → Nibble → Instr} (hp : p &&& 0xF000 = p)
    (hf : ∀ x y n, encode (f x y n) = encXyn (fieldOp p) x y n) : (OpRow.xyn p f).Rebuilds := by
  intro w h
  have hop := (and_F000_eq_iff hp).mp ((OpRow.selects_iff _ w).mp h)
  rw [OpRow.xyn, hf, ← hop, encXyn_fields]

theorem OpRow.xy_rebuilds {f : Nibble → Nibble → Instr} (hp : p &&& 0xF00F = p)
    (hf : ∀ x y, encode (f x y) = encXyn (fieldOp p) x y (fieldN p)) :
    (OpRow.xy p f).Rebuilds := by
  intro w h
  obtain ⟨hop, hn⟩ := (and_F00F_eq_iff hp).mp ((OpRow.selects_iff _ w).mp h)
  rw [OpRow.xy, hf, ← hop, ← hn, encXyn_fields]

theorem OpRow.x_rebuilds {f : Nibble → Instr} (hp : p &&& 0xF0FF = p)
    (hf : ∀ x, encode (f x) = encX (fieldOp p) x (fieldKk p)) : (OpRow.x p f).Rebuilds := by
  intro w h
  obtain ⟨hop, hkk⟩ := (and_F0FF_eq_iff hp).mp ((OpRow.selects_iff _ w).mp h)
  rw [OpRow.x, hf, ← hop, ← hkk, encX_fields]

end

theorem opRowsA_rebuild : ∀ r ∈ opRowsA, r.Rebuilds := by
  simp only [opRowsA, List.forall_mem_cons, List.not_mem_nil, IsEmpty.forall_iff,
    implies_true, and_true]
  exact ⟨OpRow.fixed_rebuilds rfl, OpRow.fixed_rebuilds rfl,
    OpRow.nnn_rebuilds rfl fun _ => rfl, OpRow.nnn_rebuilds rfl fun _ => rfl,
    OpRow.xkk_rebuilds rfl fun _ _ => rfl, OpRow.xkk_rebuilds rfl fun _ _ => rfl,
    OpRow.xy_rebuilds rfl fun _ _ => rfl,
    OpRow.xkk_rebuilds rfl fun _ _ => rfl, OpRow.xkk_rebuilds rfl fun _ _ => rfl⟩

theorem opRowsB_rebuild : ∀ r ∈ opRowsB, r.Rebuilds := by
  simp only [opRowsB, List.forall_mem_cons, List.not_mem_nil, IsEmpty.forall_iff,
    implies_true, and_true]
  and_intros <;> exact OpRow.xy_rebuilds rfl fun _ _ => rfl

theorem opRowsC_rebuild : ∀ r ∈ opRowsC, r.Rebuilds := by
  simp only [opRowsC, List.forall_mem_cons, List.not_mem_nil, IsEmpty.forall_iff,
    implies_true, and_true]
  refine ⟨OpRow.nnn_rebuilds rfl fun _ => rfl, OpRow.nnn_rebuilds rfl fun _ => rfl,
    OpRow.xkk_rebuilds rfl fun _ _ => rfl, OpRow.xyn_rebuilds rfl fun _ _ _ => rfl, ?_⟩
  and_intros <;> exact OpRow.x_rebuilds rfl fun _ => rfl

theorem opTable_rebuilds : ∀ r ∈ opTable, r.Rebuilds :=
  List.forall_mem_append.mpr
    ⟨List.forall_mem_append.mpr ⟨opRowsA_rebuild, opRowsB_rebuild⟩, opRowsC_rebuild⟩

/-- Settles O2, by the row that selects the word. -/
theorem encodingADecodedWordGivesItBack : Obligations.EncodingADecodedWordGivesItBack := by
  intro w i h
  obtain ⟨r, hr, hs, hd⟩ | ⟨-, hd⟩ := decode_cases w
  · cases h.symm.trans hd
    exact opTable_rebuilds r hr w hs
  · cases h.symm.trans hd

end Sys2Proof
end

section
/-! The decoder as the spec writes it (30_encoding.md R65, R70): the row whose match is the masked word,
and the words no row matches. -/

namespace Sys2Proof.Machine

/-- A word whose masked digits are the match of row `k` decodes to that row's instruction (R70). -/
theorem decode_row {w : Word} (k : Nat) (hk : k < opTable.length := by decide)
    (h : w &&& opTable[k].mask = opTable[k].pattern) : decode w = .instr (opTable[k].build w) :=
  decode_of_row (List.getElem_mem hk) ((OpRow.selects_iff _ w).mpr h)

/-- The match and mask columns the spec prints are those of the decoder's table. -/
theorem specTable_eq_map : specTable = opTable.map fun r => (r.pattern, r.mask) := rfl

theorem decode_undefined_iff_specTable (w : Word) :
    decode w = .undefined w ↔ ∀ row ∈ specTable, w &&& row.2 ≠ row.1 := by
  simp only [decode_undefined_iff, specTable_eq_map, List.forall_mem_map, ← Bool.not_eq_true,
    OpRow.selects_iff, ne_eq]

/-- Settles O3, row by row of the table. -/
theorem decodeFollowsMatchAndMask : Obligations.DecodeFollowsMatchAndMask := by
  intro w x y n kk nnn
  exact ⟨decode_row 0, decode_row 1, decode_row 2, decode_row 3, decode_row 4, decode_row 5,
    decode_row 6, decode_row 7, decode_row 8, decode_row 9, decode_row 10, decode_row 11,
    decode_row 12, decode_row 13, decode_row 14, decode_row 15, decode_row 16, decode_row 17,
    decode_row 18, decode_row 19, decode_row 20, decode_row 21, decode_row 22, decode_row 23,
    decode_row 24, decode_row 25, decode_row 26, decode_row 27, decode_row 28, decode_row 29,
    decode_row 30, decode_row 31, decode_row 32, decode_row 33,
    (decode_undefined_iff_specTable w).mpr⟩

/-! ### The undefined words by their digits (30_encoding.md R65) -/

/-- No row matches when each row's digits are avoided, in the table's order: a row for every rest fixes
the top digit alone, the others fix the bottom digit or the low byte too. -/
theorem decode_undefined_iff_digits (w : Word) :
    decode w = .undefined w ↔
      w ≠ 0x00E0 ∧ w ≠ 0x00EE ∧
      fieldOp w ∉ ([0x1, 0x2, 0x3, 0x4] : List Nibble) ∧
      (fieldOp w = 0x5 → fieldN w ≠ 0) ∧
      fieldOp w ∉ ([0x6, 0x7] : List Nibble) ∧
      (fieldOp w = 0x8 → fieldN w ∉ ([0x0, 0x1, 0x2, 0x3, 0x4, 0x5, 0x6, 0x7, 0xE] : List Nibble)) ∧
      (fieldOp w = 0x9 → fieldN w ≠ 0) ∧
      fieldOp w ∉ ([0xA, 0xB, 0xC, 0xD] : List Nibble) ∧
      (fieldOp w = 0xE → fieldKk w ∉ ([0x9E, 0xA1] : List Byte)) ∧
      (fieldOp w = 0xF →
        fieldKk w ∉ ([0x07, 0x0A, 0x15, 0x18, 0x1E, 0x29, 0x33, 0x55, 0x65] : List Byte)) := by
  simp (disch := decide) only [decode_undefined_iff_specTable, specTable, List.forall_mem_cons,
    ne_eq, and_F000_eq_iff, and_F00F_eq_iff, and_F0FF_eq_iff, and_FFFF_eq]
  simp only [fieldOp, fieldN, fieldKk, BitVec.reduceExtractLsb', BitVec.ofNat_eq_ofNat,
    List.mem_cons, List.not_mem_nil, IsEmpty.forall_iff, implies_true, and_true, or_false, not_or, not_and,
    imp_and, and_assoc]

/-- A top digit that no row fixes alone is one of the six of R65's list. -/
theorem nibble_eq_of_not_mem {op : Nibble} (h1 : op ∉ ([0x1, 0x2, 0x3, 0x4] : List Nibble))
    (h2 : op ∉ ([0x6, 0x7] : List Nibble)) (h3 : op ∉ ([0xA, 0xB, 0xC, 0xD] : List Nibble)) :
    op = 0x0 ∨ op = 0x5 ∨ op = 0x8 ∨ op = 0x9 ∨ op = 0xE ∨ op = 0xF := by
  revert op
  decide

/-- The bottom digits of 8xyn without a row are the seven of R65's list. -/
theorem nibble_without_row_iff (n : Nibble) :
    n ∈ ([0x8, 0x9, 0xA, 0xB, 0xC, 0xD, 0xF] : List Nibble) ↔
      n ∉ ([0x0, 0x1, 0x2, 0x3, 0x4, 0x5, 0x6, 0x7, 0xE] : List Nibble) := by
  revert n
  decide

theorem ne_fixed_of_fieldOp_ne_zero {w : Word} (h : fieldOp w ≠ 0) : w ≠ 0x00E0 ∧ w ≠ 0x00EE :=
  ⟨fun e => h (e ▸ rfl), fun e => h (e ▸ rfl)⟩

/-- Settles O4, by the top digit. -/
theorem undefinedWordsAreExactlyTheListed : Obligations.UndefinedWordsAreExactlyTheListed := by
  intro w op n kk
  change _ ↔ (fieldOp w = 0x0 ∧ _) ∨ (fieldOp w = 0x5 ∧ fieldN w ≠ 0) ∨
    (fieldOp w = 0x8 ∧ fieldN w ∈ _) ∨ (fieldOp w = 0x9 ∧ fieldN w ≠ 0) ∨
    (fieldOp w = 0xE ∧ fieldKk w ∉ _) ∨ (fieldOp w = 0xF ∧ fieldKk w ∉ _)
  rw [decode_undefined_iff_digits, nibble_without_row_iff]
  constructor
  · rintro ⟨hcls, hret, h1, h5, h6, h8, h9, hA, hE, hF⟩
    obtain h | h | h | h | h | h := nibble_eq_of_not_mem h1 h6 hA
    · exact .inl ⟨h, hcls, hret⟩
    · exact .inr (.inl ⟨h, h5 h⟩)
    · exact .inr (.inr (.inl ⟨h, h8 h⟩))
    · exact .inr (.inr (.inr (.inl ⟨h, h9 h⟩)))
    · exact .inr (.inr (.inr (.inr (.inl ⟨h, hE h⟩))))
    · exact .inr (.inr (.inr (.inr (.inr ⟨h, hF h⟩))))
  · rintro (⟨h, hw⟩ | ⟨h, hd⟩ | ⟨h, hd⟩ | ⟨h, hd⟩ | ⟨h, hd⟩ | ⟨h, hd⟩)
    · simpa [h] using hw
    all_goals
      have hw := ne_fixed_of_fieldOp_ne_zero (w := w) (by simp [h])
      simpa [h, and_assoc] using And.intro hw hd

/-- Settles O5, by the row of each word, or by the clause of R65's list. -/
theorem sampleWordsDecodeAsTheSpecWritesThem :
    Obligations.SampleWordsDecodeAsTheSpecWritesThem :=
  ⟨decode_row 7 (h := rfl), decode_row 3 (h := rfl), decode_row 14 (h := rfl),
    decode_row 20 (h := rfl), decode_row 22 (h := rfl), decode_row 23 (h := rfl),
    decode_row 26 (h := rfl), decode_row 32 (h := rfl),
    (undefinedWordsAreExactlyTheListed _).mpr (.inr (.inl ⟨rfl, by decide⟩)),
    (undefinedWordsAreExactlyTheListed _).mpr (.inr (.inr (.inl ⟨rfl, by decide⟩)))⟩

end Sys2Proof.Machine
end

section
/-! The step cycle (40_step_cycle.md R80 to R84): a Step in RUN is the fetch and then the word at PC (O6,
O7, O8), a turn of the core outside RUN passes (O9), a host turn is the host's move (O17), and turns are
taken in order (O60). -/

namespace Sys2Proof.Machine

/-! ### The fetch, and a Step in RUN -/

/-- A fetch that succeeds reads the word at PC and advances PC (40_step_cycle.md R81). -/
theorem State.fetch_ok {s : State} (h : s.pc.toNat ≤ 4094) : s.fetch = .ok s.wordAtPc s.advancePc := by
  obtain ⟨-, e⟩ | ⟨hpc, -⟩ | ⟨hpc, -⟩ := s.memReadWord_cases s.pc.toNat
  · simp only [State.fetch, e, State.wordAtPc]
  · omega
  · omega

/-- PC after a fetch that succeeds: the advance does not wrap. -/
theorem State.advancePc_toNat {s : State} (h : s.pc.toNat ≤ 4094) :
    s.advancePc.pc.toNat = s.pc.toNat + 2 := by
  rw [State.advancePc_pc]
  bv_omega

/-- What a Step does before it fetches: the account of turns and the LOAD window (log 3, log 6). -/
theorem State.endTurn_closeLoad_frame (s : State) :
    SameExcept [.schedule, .environment, .loadOpen] s s.endTurn.closeLoad :=
  (s.endTurn_frame.mono (by simp)).trans ((State.closeLoad_frame _).mono (by simp))

theorem State.afterFetch_frame (s : State) :
    SameExcept [.pc, .schedule, .environment, .loadOpen] s s.afterFetch :=
  (s.endTurn_closeLoad_frame.mono (by simp)).trans ((State.setPc_frame _ _).mono (by simp))

section
variable {s : State}

/-- A Step whose fetch succeeds runs the word at PC, from the state after the fetch. -/
theorem step_of_pc_le (h : s.aboutToStep) (hpc : s.pc.toNat ≤ 4094) :
    step s = execWord s.wordAtPc s.afterFetch := by
  rw [step_run h]
  obtain ⟨-, e⟩ | ⟨hpc', -⟩ | ⟨hpc', -⟩ := coreStep_cases s.endTurn
  · exact e
  · rw [State.endTurn_pc] at hpc'
    omega
  · rw [State.endTurn_pc] at hpc'
    omega

/-- A Step whose fetch fails raises at the first address of the word that is out of range. -/
theorem step_of_le_pc (h : s.aboutToStep) (hpc : 4095 ≤ s.pc.toNat) :
    step s = .next (s.endTurn.closeLoad.raise .memOutOfBounds
      (if s.pc.toNat = 4095 then 4096 else s.pc.toNat)) := by
  rw [step_run h]
  obtain ⟨hpc', -⟩ | ⟨hpc', e⟩ | ⟨hpc', e⟩ := coreStep_cases s.endTurn
  · rw [State.endTurn_pc] at hpc'
    omega
  · rw [State.endTurn_pc] at hpc'
    rw [e, if_pos hpc']
  · rw [State.endTurn_pc] at hpc' e
    rw [e, if_neg (by omega)]

end

theorem execWord_of_instr {w : Word} {i : Instr} (h : decode w = .instr i) (s : State) :
    execWord w s = exec i s := by
  simp only [execWord, h]

theorem execWord_of_undefined {w : Word} (h : decode w = .undefined w) (s : State) :
    execWord w s = .next s := by
  simp only [execWord, h]

/-- No field value makes an instruction ill-formed (30_encoding.md R67). -/
theorem instr_wellFormed (i : Instr) : i.wellFormed = true := by
  cases i <;> rfl

/-- Settles O6: the fetch has moved PC, and executing the word changes nothing. -/
theorem undefinedWordOnlyAdvancesPc : Obligations.UndefinedWordOnlyAdvancesPc := by
  refine ⟨fun w s h => execWord_of_undefined h s, fun s hs hpc hw => ?_⟩
  have hstep := (step_of_pc_le hs hpc).trans (execWord_of_undefined hw s.afterFetch)
  exact ⟨s.afterFetch, hstep, rfl, s.afterFetch_frame⟩

/-- Settles O7: the word at PC is executed from the state after the fetch. -/
theorem stepRunsTheDecodedInstruction : Obligations.StepRunsTheDecodedInstruction := by
  intro s i hs hpc hw
  refine ⟨instr_wellFormed i, (step_of_pc_le hs hpc).trans (execWord_of_instr hw s.afterFetch), rfl,
    rfl, rfl, fun hne => ?_, State.endTurn_environment_of_nil, s.afterFetch_frame⟩
  obtain ⟨u, us, hus⟩ := List.exists_cons_of_ne_nil hne
  exact State.endTurn_environment_of_cons hus

/-- Settles O8, by the two sides of the bound 4094. -/
theorem fetchRaisesExactlyAbove4094 : Obligations.FetchRaisesExactlyAbove4094 := by
  intro s
  refine ⟨fun hs hpc => ?_, fun hpc => ?_⟩
  · have hinfo : (if s.pc.toNat = 4095 then 4096 else s.pc.toNat) < 131072 := by
      have := s.pc.isLt
      split <;> omega
    exact ⟨_, step_of_le_pc hs hpc, State.raise_faulted _ _ hinfo, rfl,
      (s.endTurn_closeLoad_frame.mono (by simp)).trans ((State.raise_frame _ _ _).mono (by simp))⟩
  · exact ⟨s.wordAtPc, s.advancePc, State.fetch_ok hpc, toNat_byte_append_byte _ _,
      State.advancePc_toNat hpc, s.setPc_frame _⟩

/-! ### The core outside RUN, and the host's turns -/

theorem State.not_hostNext_of_coreNext {s : State} (h : s.coreNext = true) (e : HostEvent) :
    ¬ s.hostNext e := by
  intro he
  cases (s.coreNext_iff.mp h).symm.trans he

/-- Settles O9, by the kinds of move: a Step needs RUN, and the turn is not the host's. -/
theorem coreHasNoStepOutsideRun : Obligations.CoreHasNoStepOutsideRun := by
  intro s hc hm
  obtain ⟨hrun, -⟩ | ⟨-, -, hgo, e⟩ | ⟨hf, hp, e⟩ | ⟨ev, hev, -⟩ := step_cases s
  · exact absurd hrun.2 hm
  · exact ⟨fun h => absurd h hgo, fun _ => ⟨s.endTurn, e, s.endTurn_frame⟩⟩
  · exact ⟨fun _ => e, fun hgo => absurd ⟨hf, hp⟩ hgo⟩
  · exact absurd hev (State.not_hostNext_of_coreNext hc ev)

/-- A move of the host answers a next state, unless it is a LOAD out of its place
(70_reset_and_hazards.md R195). -/
theorem hostMove_next_or_refused (e : HostEvent) (s : State) :
    (∃ t, hostMove e s = .next t) ∨
    (∃ rom, e = .load rom) ∧ s.loadAdmitted = false ∧ hostMove e s = .refused .loadNotAdmitted := by
  cases e with
  | load rom =>
    cases ha : s.loadAdmitted with
    | true => exact .inl ⟨s.loadEvent rom, by simp only [hostMove, ha, if_true]⟩
    | false => exact .inr ⟨⟨rom, rfl⟩, rfl, by simp [hostMove, ha]⟩
  | _ => exact .inl ⟨_, rfl⟩

/-- Settles O17: taking the turn does not change whether a LOAD is admitted. -/
theorem hostTurnIsTheHostsMove : Obligations.HostTurnIsTheHostsMove := by
  intro s e he
  rw [step_host he]
  exact ⟨rfl, hostMove_next_or_refused e s.endTurn⟩

/-! ### The order of turns (log 3) -/

/-- The turns still to come are the same in both states. -/
def SameTurns (s t : State) : Prop := t.schedule = s.schedule ∧ t.environment = s.environment

section
variable {s t : State}

/-- No instruction touches the turns to come. -/
theorem exec_sameTurns {i : Instr} (h : exec i s = .next t) : SameTurns s t :=
  ⟨exec_agree (c := .schedule) h (not_mem_writtenUnits i (by decide)) (by decide),
    exec_agree (c := .environment) h (not_mem_writtenUnits i (by decide)) (by decide)⟩

theorem coreStep_sameTurns (h : coreStep s = .next t) : SameTurns s t := by
  obtain ⟨-, e⟩ | ⟨-, e⟩ | ⟨-, e⟩ := coreStep_cases s
  · cases hd : decode s.wordAtPc with
    | instr i =>
      rw [execWord_of_instr hd] at e
      exact exec_sameTurns (s := s.closeLoad.advancePc) (e.symm.trans h)
    | undefined w =>
      simp only [execWord, hd] at e
      cases h.symm.trans e
      exact ⟨rfl, rfl⟩
  · cases h.symm.trans e
    exact ⟨rfl, rfl⟩
  · cases h.symm.trans e
    exact ⟨rfl, rfl⟩

/-- No move of the host touches the turns to come, RESET included (log 8). -/
theorem hostMove_sameTurns {e : HostEvent} (h : hostMove e s = .next t) : SameTurns s t := by
  obtain ⟨-, rfl⟩ | ⟨rom, -, -, rfl⟩ | ⟨-, rfl⟩ | ⟨k, -, rfl⟩ | ⟨k, -, rfl⟩ | ⟨-, rfl⟩ :=
    hostMove_cases h
  · exact ⟨rfl, rfl⟩
  · have hf := s.loadEvent_frame rom
    exact ⟨hf .schedule (by decide), hf .environment (by decide)⟩
  · exact ⟨rfl, rfl⟩
  · obtain ⟨-, e⟩ | ⟨-, e⟩ := s.keyDown_cases k
    · rw [e]
      exact ⟨rfl, rfl⟩
    · rw [e]
      exact ⟨rfl, rfl⟩
  · exact ⟨rfl, rfl⟩
  · exact ⟨rfl, rfl⟩

/-- A move takes its own turn away and no other. -/
theorem step_sameTurns (h : step s = .next t) : SameTurns s.endTurn t := by
  obtain ⟨-, e⟩ | ⟨-, -, -, e⟩ | ⟨-, -, e⟩ | ⟨ev, -, e⟩ := step_cases s
  · exact coreStep_sameTurns (e.symm.trans h)
  · cases h.symm.trans e
    exact ⟨rfl, rfl⟩
  · cases h.symm.trans e
  · exact hostMove_sameTurns (e.symm.trans h)

end

/-- A state with no planned turn, whose environment goes on with its `k`-th free turn. -/
def State.FreeAt (k : Nat) (s : State) : Prop := s.schedule = [] ∧ s.environment = .free k

section
variable {k : Nat} {s t : State}

/-- A state with a planned turn takes it. -/
theorem step_of_cons {u : Turn} {us : List Turn} (h : s.schedule = u :: us) :
    step s = takeTurn u s.endTurn := by
  have hgo : ¬(s.mode = .fault ∧ s.planEnded = true) := by
    rw [s.planEnded_iff, h]
    simp
  rw [step_eq s hgo, State.nextTurn_of_cons h]

/-- A free environment at `k` takes the `k`-th free turn. -/
theorem State.FreeAt.step_eq_freeTurn (h : s.FreeAt k) : step s = takeTurn (Config.freeTurn k) s.endTurn := by
  obtain ⟨hs, he⟩ := h
  have hgo : ¬(s.mode = .fault ∧ s.planEnded = true) := by
    rw [s.planEnded_iff, he]
    simp
  rw [step_eq s hgo, State.nextTurn_of_nil hs, he, Environment.turn]

/-- A move of a free environment leaves it at the next free turn. -/
theorem State.FreeAt.succ_of_step (h : s.FreeAt k) (hst : step s = .next t) : t.FreeAt (k + 1) := by
  obtain ⟨hs, he⟩ := h
  obtain ⟨hts, hte⟩ := step_sameTurns hst
  refine ⟨?_, ?_⟩
  · rw [hts, State.endTurn_schedule, hs, List.tail_nil]
  · rw [hte, State.endTurn_environment_of_nil hs, he, Environment.next]

/-- A run of `n + 1` moves that ends in a next state is a move and a run of `n`. -/
theorem core_run_succ_eq_next {n : Nat} (h : Sys2Proof.core.run (n + 1) s = .next t) :
    ∃ s', step s = .next s' ∧ Sys2Proof.core.run n s' = .next t := by
  cases hst : step s with
  | next s' => exact ⟨s', rfl, (core_run_succ n hst).symm.trans h⟩
  | fault r =>
    have hc : Sys2Proof.core.step s = .fault r := hst
    simp only [Host.Core.run, hc] at h
    cases h
  | refused r =>
    have hc : Sys2Proof.core.step s = .refused r := hst
    simp only [Host.Core.run, hc] at h
    cases h

/-- After `n` moves a free environment stands `n` free turns further on. -/
theorem State.FreeAt.of_run {n : Nat} (h : s.FreeAt k) (hr : Sys2Proof.core.run n s = .next t) :
    t.FreeAt (k + n) := by
  induction n generalizing k s with
  | zero =>
    cases hr
    exact h
  | succ n ih =>
    obtain ⟨s', hst, hr'⟩ := core_run_succ_eq_next hr
    rw [Nat.add_comm n 1, ← Nat.add_assoc]
    exact ih (h.succ_of_step hst) hr'

end

/-- Settles O60: the plan is taken from its head, and each move of a free environment counts one
turn. -/
theorem turnsAreThePlannedOnesThenTheFreeOnes :
    Obligations.TurnsAreThePlannedOnesThenTheFreeOnes := by
  refine ⟨fun s u us h => ?_, fun n k s t hs he hr => ?_⟩
  · have htail : s.endTurn.schedule = us := by rw [State.endTurn_schedule, h, List.tail_cons]
    exact ⟨step_of_cons h, htail, State.endTurn_environment_of_cons h⟩
  · have hfree : t.FreeAt (k + n) := State.FreeAt.of_run ⟨hs, he⟩ hr
    exact ⟨hfree.1, hfree.2, hfree.step_eq_freeTurn⟩

end Sys2Proof.Machine
end

section
/-! The display (41_display.md): 00E0 clears the screen (O21), Dxyn draws the sprite at I (O22) or faults
before it draws (O23), and a second draw undoes the first (O24). -/

namespace Sys2Proof.Machine

/-- Settles O21: FB becomes the clear screen, and writing FB changes nothing else. -/
theorem clsClearsEveryPixel : Obligations.ClsClearsEveryPixel :=
  ⟨decode_encode .cls, fun s => ⟨s.setFb Screen.clear, rfl, Screen.pixel_clear, s.setFb_frame _⟩⟩

/-! ### What Dxyn answers -/

/-- The sprite of `n` rows at I (41_display.md R93). -/
def State.spriteRows (s : State) (n : Nibble) : List Byte :=
  (List.range n.toNat).map fun r => s.byteAt (s.effAddr r)

/-- The state after Dxyn has drawn: FB holds the composed screen, VF the collision (R93). -/
def State.afterDrw (s : State) (x y n : Nibble) : State :=
  let r := s.fb.drawSprite (s.readV x) (s.readV y) (s.spriteRows n)
  (s.setFb r.1).setFlag r.2

/-- A sprite of no rows reads no byte, so it may lie outside memory. -/
theorem State.readBytes_spriteRows {s : State} {n : Nibble} (h : s.i.toNat + n.toNat ≤ 4096 ∨ n = 0) :
    s.readBytes (s.effAddr 0) n.toNat = .ok (s.spriteRows n) s := by
  obtain h | rfl := h
  · exact s.readBytes_ok h
  · rfl

theorem exec_drw_ok {x y n : Nibble} {s : State} (h : FaultFree (.drw x y n) s) :
    exec (.drw x y n) s = .next (s.afterDrw x y n) := by
  simp only [exec, execDrw, State.readBytes_spriteRows h]
  rfl

theorem exec_drw_raised (x y : Nibble) {n : Nibble} {s : State} (hn : n ≠ 0)
    (h : 4096 < s.i.toNat + n.toNat) :
    exec (.drw x y n) s = .next (s.raise .memOutOfBounds (firstOutOfRange s.i.toNat)) := by
  have hn' : n.toNat ≠ 0 := fun e => hn (BitVec.eq_of_toNat_eq e)
  have hraised : s.readBytes (s.effAddr 0) n.toNat =
      .raised (s.raise .memOutOfBounds (firstOutOfRange s.i.toNat)) := s.readBytes_raised h hn'
  simp only [exec, execDrw, hraised]

/-- Settles O23: the reads precede the drawing. -/
theorem drwOutOfRangeDrawsNothing : Obligations.DrwOutOfRangeDrawsNothing := by
  intro x y n s hn h
  have hinfo : firstOutOfRange s.i.toNat < 131072 := by
    have := (firstOutOfRange_bounds s.i.isLt).2
    omega
  exact ⟨_, exec_drw_raised x y hn h, s.raise_faulted _ hinfo, s.raise_frame _ _⟩

/-! ### What a draw leaves -/

theorem flagByte_eq_one_iff (c : Bool) : flagByte c = 1 ↔ c = true := by
  cases c <;> decide

section
variable (s : State) (x y n : Nibble)

/-- No sprite reaches its own top row again round the screen. -/
theorem State.length_spriteRows_le : (s.spriteRows n).length ≤ 32 := by
  rw [State.spriteRows, List.length_map, List.length_range]
  have := n.isLt
  omega

/-- A draw writes FB and V. -/
theorem State.afterDrw_frame : SameExcept [.v, .fb] s (s.afterDrw x y n) :=
  ((s.setFb_frame _).mono (by simp)).trans ((State.setFlag_frame _ _).mono (by simp))

/-- A draw writes no register but VF. -/
theorem State.afterDrw_onlyRegs : OnlyRegs (· = 15) s (s.afterDrw x y n) :=
  fun _ hr => State.readV_setFlag_ne _ _ hr

theorem State.pixel_afterDrw (X Y : Nat) :
    (s.afterDrw x y n).fb.pixel X Y =
      (s.fb.pixel X Y ^^ spriteBit (s.readV x) (s.readV y) (s.spriteRows n) X Y) :=
  s.fb.pixel_drawSprite _ _ (s.length_spriteRows_le n) X Y

/-- VF after a draw, as the collision bit of the compositor. -/
theorem State.vf_afterDrw : (s.afterDrw x y n).readV 15 =
    flagByte (s.fb.drawSprite (s.readV x) (s.readV y) (s.spriteRows n)).2 :=
  State.readV_setFlag_vf _ _

/-- VF is 1 after a draw exactly when a set pixel lay under a sprite bit (R92). -/
theorem State.vf_afterDrw_eq_one_iff : (s.afterDrw x y n).readV 15 = 1 ↔
    ∃ X Y, s.fb.pixel X Y = true ∧
      spriteBit (s.readV x) (s.readV y) (s.spriteRows n) X Y = true := by
  rw [s.vf_afterDrw, flagByte_eq_one_iff]
  exact s.fb.collision_drawSprite _ _ (s.length_spriteRows_le n)

/-- VF is 0 or 1 after a draw. -/
theorem State.vf_afterDrw_eq_zero (h : (s.afterDrw x y n).readV 15 ≠ 1) :
    (s.afterDrw x y n).readV 15 = 0 := by
  rw [s.vf_afterDrw] at h ⊢
  rw [ne_eq, flagByte_eq_one_iff, Bool.not_eq_true] at h
  rw [h]
  rfl

end

/-- Settles O22, by the closed form of the compositor. -/
theorem drwXorsTheSpriteAndReportsCollision : Obligations.DrwXorsTheSpriteAndReportsCollision := by
  intro x y n s h
  exact ⟨decode_encode (.drw x y n), s.afterDrw x y n, exec_drw_ok h.symm, s.pixel_afterDrw x y n,
    (s.vf_afterDrw_eq_one_iff x y n).mpr,
    fun hc => s.vf_afterDrw_eq_zero x y n (mt (s.vf_afterDrw_eq_one_iff x y n).mp hc),
    s.afterDrw_onlyRegs x y n, s.afterDrw_frame x y n⟩

/-! ### The second draw -/

/-- A draw changes neither I nor memory, so the sprite at I stays the same. -/
theorem State.spriteRows_afterDrw (s : State) (x y n : Nibble) :
    (s.afterDrw x y n).spriteRows n = s.spriteRows n := rfl

section
variable (s : State) {x y : Nibble} (n : Nibble) (hx : x ≠ 15) (hy : y ≠ 15)
include hx hy

/-- The second draw has the coordinates of the first. -/
theorem State.coordinates_afterDrw :
    (s.afterDrw x y n).readV x = s.readV x ∧ (s.afterDrw x y n).readV y = s.readV y :=
  ⟨s.afterDrw_onlyRegs x y n x hx, s.afterDrw_onlyRegs x y n y hy⟩

/-- The second draw puts the same sprite bit on each pixel, over the screen the first one left. -/
theorem State.pixel_second_afterDrw (X Y : Nat) :
    ((s.afterDrw x y n).afterDrw x y n).fb.pixel X Y = s.fb.pixel X Y := by
  obtain ⟨hpx, hpy⟩ := s.coordinates_afterDrw n hx hy
  rw [State.pixel_afterDrw, hpx, hpy, s.spriteRows_afterDrw, s.pixel_afterDrw, Bool.xor_assoc,
    Bool.xor_self, Bool.xor_false]

/-- Under a sprite bit the first draw sets exactly the pixels that were clear, and on those the second
collides (log 12). -/
theorem State.vf_second_afterDrw_eq_one_iff :
    ((s.afterDrw x y n).afterDrw x y n).readV 15 = 1 ↔
      ∃ X Y, s.fb.pixel X Y = false ∧
        spriteBit (s.readV x) (s.readV y) (s.spriteRows n) X Y = true := by
  obtain ⟨hpx, hpy⟩ := s.coordinates_afterDrw n hx hy
  rw [State.vf_afterDrw_eq_one_iff, hpx, hpy, s.spriteRows_afterDrw]
  refine exists_congr fun X => exists_congr fun Y => and_congr_left fun hbit => ?_
  rw [s.pixel_afterDrw, hbit, Bool.xor_true, Bool.not_eq_true']

end

/-- Settles O24: coordinates, rows and I are the same for the second draw. -/
theorem drawingTwiceRestoresTheScreen : Obligations.DrawingTwiceRestoresTheScreen := by
  intro x y n s t hx hy hff ht
  cases ht.symm.trans (exec_drw_ok hff)
  exact ⟨_, exec_drw_ok (s := s.afterDrw x y n) hff, s.pixel_second_afterDrw n hx hy,
    s.vf_second_afterDrw_eq_one_iff n hx hy⟩

end Sys2Proof.Machine
end

section
/-! Control transfer (42_control_flow.md): return (O25), call (O27), a return after its call (O29), jumps
(O30), skips (O31). -/

namespace Sys2Proof.Machine

/-! ### Return and call -/

theorem toNat_sub_one_of_le {b : Byte} (h : 1 ≤ b.toNat) : (b - 1).toNat = b.toNat - 1 := by
  bv_omega

/-- Settles O25. -/
theorem retPopsTheReturnAddress : Obligations.RetPopsTheReturnAddress := by
  refine ⟨decode_encode .ret, fun s h1 h2 => ?_⟩
  have hsp := toNat_sub_one_of_le h1
  refine ⟨_, exec_ret_ok s h1 h2, ?_, hsp, ?_⟩
  · rw [State.setPc_pc, ← hsp, BitVec.ofNat_toNat]
  · exact ((s.setSp_frame _).mono (by simp)).trans ((State.setPc_frame _ _).mono (by simp))

theorem zextAddr_toNat (nnn : Addr12) : (zextAddr nnn).toNat = nnn.toNat :=
  BitVec.toNat_setWidth_of_le (by decide)

theorem zextByte_toNat (b : Byte) : (zextByte b).toNat = b.toNat :=
  BitVec.toNat_setWidth_of_le (by decide)

/-- Settles O27. -/
theorem callPushesAndJumps : Obligations.CallPushesAndJumps := by
  intro nnn s h
  refine ⟨decode_encode (.call nnn), _, exec_call_ok nnn s h, ?_,
    fun k hk => s.slot_pushed_ne s.pc h hk, toNat_add_one_of_lt h, zextAddr_toNat nnn, ?_⟩
  · rw [BitVec.ofNat_toNat]
    exact (s.slot_setSlot _ _ s.pc).trans (if_pos rfl)
  · exact (((s.setSlot_frame _ _).mono (by simp)).trans ((State.setSp_frame _ _).mono (by simp))).trans
      ((State.setPc_frame _ _).mono (by simp))

/-- Settles O29: the return pops at SP - 1, which is the slot the call filled. -/
theorem returnResumesAfterTheCall : Obligations.ReturnResumesAfterTheCall := by
  intro nnn s t u h ht hsp hslot
  obtain ⟨-, t', ht', hpushed, -, hcall, -⟩ := callPushesAndJumps nnn s h
  cases ht.symm.trans ht'
  rw [← hsp] at hcall
  obtain ⟨v, hv, hpc, hvsp, -⟩ := retPopsTheReturnAddress.2 u (by omega) (by omega)
  rw [hcall, Nat.add_sub_cancel] at hpc hvsp
  exact ⟨v, hv, hpc.trans (hslot.trans hpushed), BitVec.eq_of_toNat_eq hvsp⟩

/-! ### Jumps and skips -/

/-- Settles O30. -/
theorem jumpsSetPc : Obligations.JumpsSetPc := by
  intro nnn s
  refine ⟨decode_encode (.jp nnn), decode_encode (.jpV0 nnn),
    ⟨_, rfl, zextAddr_toNat nnn, s.setPc_frame _⟩, ⟨_, rfl, ?_, s.setPc_frame _⟩⟩
  rw [State.setPc_pc, BitVec.toNat_add, zextAddr_toNat, zextByte_toNat]

/-- An instruction that is the skip on a test adds 2 to PC when what the test decides holds. -/
theorem exec_skip {i : Instr} {s : State} {c : Bool} {p : Prop} [Decidable p]
    (e : exec i s = .next (s.skipIf c)) (hc : c = true ↔ p) :
    ∃ t, exec i s = .next t ∧ t.pc = (if p then s.pc + 2 else s.pc) ∧ SameExcept [.pc] s t :=
  ⟨_, e, (s.skipIf_pc c).trans (if_congr hc rfl rfl), s.skipIf_frame c⟩

/-- Settles O31: each of the four is the skip on its comparison. -/
theorem skipsAddTwoExactlyOnTheirCondition : Obligations.SkipsAddTwoExactlyOnTheirCondition := by
  intro x y kk s
  exact ⟨decode_encode (.seImm x kk), decode_encode (.sneImm x kk), decode_encode (.seReg x y),
    decode_encode (.sneReg x y), exec_skip rfl beq_iff_eq, exec_skip rfl bne_iff_ne,
    exec_skip rfl beq_iff_eq, exec_skip rfl bne_iff_ne⟩

end Sys2Proof.Machine
end

section
/-! Register load, arithmetic and logic (43_load_alu.md): loads and logic (O32), the additions (O33, O34),
the subtractions (O35, O36), the shifts (O37), the random byte (O38). -/

namespace Sys2Proof.Machine

/-! ### One register written, no flag -/

/-- Settles O32: each of the five is one write of Vx. -/
theorem loadsAndLogicWriteOnlyVx : Obligations.LoadsAndLogicWriteOnlyVx := by
  intro x y kk s
  exact ⟨decode_encode (.ldImm x kk), decode_encode (.ldReg x y), decode_encode (.orReg x y),
    decode_encode (.andReg x y), decode_encode (.xorReg x y), ⟨_, rfl, s.writeV_spec x _⟩,
    ⟨_, rfl, s.writeV_spec x _⟩, ⟨_, rfl, s.writeV_spec x _⟩, ⟨_, rfl, s.writeV_spec x _⟩,
    ⟨_, rfl, s.writeV_spec x _⟩⟩

/-- Settles O33: one write of Vx, with the sum of bytes. -/
theorem addImmediateWrapsWithoutFlag : Obligations.AddImmediateWrapsWithoutFlag := by
  intro x kk s
  obtain ⟨hvx, hregs, hframe⟩ := s.writeV_spec x (s.readV x + kk)
  exact ⟨decode_encode (.addImm x kk), _, rfl, by rw [hvx, BitVec.toNat_add], hregs, hframe⟩

/-! ### The flags as numbers -/

theorem flagByte_decide (p : Prop) [Decidable p] : flagByte (decide p) = if p then 1 else 0 :=
  if_congr decide_eq_true_iff rfl rfl

theorem flagByte_carryOut (a b : Byte) :
    flagByte (carryOut a b) = if 255 < a.toNat + b.toNat then 1 else 0 :=
  flagByte_decide _

theorem flagByte_strictlyGreater (a b : Byte) :
    flagByte (strictlyGreater a b) = if b.toNat < a.toNat then 1 else 0 :=
  flagByte_decide _

theorem toNat_flagByte_lowBit (a : Byte) : (flagByte (lowBit a)).toNat = a.toNat % 2 := by
  obtain h | h := Nat.mod_two_eq_zero_or_one a.toNat <;>
    simp [flagByte, lowBit, BitVec.getLsbD, Nat.testBit_zero, h]

theorem highBit_eq_decide (a : Byte) : highBit a = decide (128 ≤ a.toNat) :=
  BitVec.msb_eq_decide a

/-! ### Addition and subtraction with a flag -/

/-- Settles O34: the sum is taken from the old registers. -/
theorem addRegistersSetsCarry : Obligations.AddRegistersSetsCarry := by
  intro x y s
  obtain ⟨hvx, hvf, hregs, hframe⟩ := s.setFlag_writeV_spec (carryOut (s.readV x) (s.readV y)) x
    (s.readV x + s.readV y)
  rw [flagByte_carryOut] at hvf
  exact ⟨decode_encode (.addReg x y), _, rfl, by rw [hvx, BitVec.toNat_add], hvf, hregs, hframe⟩

/-- The state after a subtraction: VF tells whether Va was strictly above Vb, and then Vx is the
difference of the registers as that write left them (R128, R130, D3). -/
def State.afterSub (s : State) (x a b : Nibble) : State :=
  let t := s.setFlag (strictlyGreater (s.readV a) (s.readV b))
  t.writeV x (t.readV a - t.readV b)

/-- What 8xy5 and 8xy7 have in common. An operand numbered 15 reads the new flag. -/
theorem State.afterSub_spec (s : State) (x a b : Nibble) :
    let flag : Byte := if (s.readV b).toNat < (s.readV a).toNat then 1 else 0
    let va : Byte := if a = 15 then flag else s.readV a
    let vb : Byte := if b = 15 then flag else s.readV b
    ((s.afterSub x a b).readV x).toNat = (256 + va.toNat - vb.toNat) % 256 ∧
    (x ≠ 15 → (s.afterSub x a b).readV 15 = flag) ∧
    OnlyRegs (fun r => r = x ∨ r = 15) s (s.afterSub x a b) ∧ SameExcept [.v] s (s.afterSub x a b) := by
  intro flag va vb
  have hflag : flagByte (strictlyGreater (s.readV a) (s.readV b)) = flag := flagByte_strictlyGreater _ _
  have hread : ∀ r, (s.setFlag (strictlyGreater (s.readV a) (s.readV b))).readV r =
      if r = 15 then flag else s.readV r := fun r => hflag ▸ s.readV_setFlag r _
  obtain ⟨hvx, hvf, hregs, hframe⟩ : _ ∧ (x ≠ 15 → (s.afterSub x a b).readV 15 = _) ∧ _ :=
    s.setFlag_writeV_spec _ x _
  have hdiff : (s.afterSub x a b).readV x = va - vb := hvx.trans (by rw [hread a, hread b])
  refine ⟨?_, fun hx => (hvf hx).trans hflag, hregs, hframe⟩
  have hb := vb.isLt
  rw [hdiff, BitVec.toNat_sub]
  omega

/-- Settles O35: 8xy5 subtracts Vy from Vx. -/
theorem subtractSetsStrictlyGreater : Obligations.SubtractSetsStrictlyGreater :=
  fun x y s => ⟨decode_encode (.subReg x y), s.afterSub x x y, rfl, s.afterSub_spec x x y⟩

/-- Settles O36: 8xy7 subtracts Vx from Vy. -/
theorem reverseSubtractSetsStrictlyGreater : Obligations.ReverseSubtractSetsStrictlyGreater :=
  fun x y s => ⟨decode_encode (.subnReg x y), s.afterSub x y x, rfl, s.afterSub_spec x y x⟩

/-! ### Shifts -/

/-- A flag shifted right is 0. -/
theorem flagByte_shiftRight (c : Bool) : flagByte c >>> 1 = 0 := by
  cases c <;> decide

/-- A flag shifted left is 2 or 0. -/
theorem flagByte_shiftLeft (c : Bool) : flagByte c <<< 1 = if c then 2 else 0 := by
  cases c <;> decide

/-- 8xy6: the shift reads Vx as the write of VF left it. -/
theorem exec_shr_spec (x y : Nibble) (s : State) :
    ∃ t, exec (.shr x y) s = .next t ∧
      (x ≠ 15 → (t.readV x).toNat = (s.readV x).toNat / 2 ∧
        (t.readV 15).toNat = (s.readV x).toNat % 2) ∧
      (x = 15 → t.readV 15 = 0) ∧
      OnlyRegs (fun r => r = x ∨ r = 15) s t ∧ SameExcept [.v] s t := by
  obtain ⟨hvx, hvf, hregs, hframe⟩ := s.setFlag_writeV_spec (lowBit (s.readV x)) x
    ((s.setFlag (lowBit (s.readV x))).readV x >>> 1)
  refine ⟨_, rfl, fun hx => ⟨?_, ?_⟩, ?_, hregs, hframe⟩
  · rw [hvx, s.readV_setFlag_ne _ hx, BitVec.toNat_ushiftRight, Nat.shiftRight_one]
  · rw [hvf hx, toNat_flagByte_lowBit]
  · rintro rfl
    rw [hvx, s.readV_setFlag_vf, flagByte_shiftRight]

/-- 8xyE: the shift reads Vx as the write of VF left it. -/
theorem exec_shl_spec (x y : Nibble) (s : State) :
    ∃ t, exec (.shl x y) s = .next t ∧
      (x ≠ 15 → (t.readV x).toNat = 2 * (s.readV x).toNat % 256 ∧
        t.readV 15 = if 128 ≤ (s.readV x).toNat then 1 else 0) ∧
      (x = 15 → t.readV 15 = if 128 ≤ (s.readV 15).toNat then 2 else 0) ∧
      OnlyRegs (fun r => r = x ∨ r = 15) s t ∧ SameExcept [.v] s t := by
  obtain ⟨hvx, hvf, hregs, hframe⟩ := s.setFlag_writeV_spec (highBit (s.readV x)) x
    ((s.setFlag (highBit (s.readV x))).readV x <<< 1)
  refine ⟨_, rfl, fun hx => ⟨?_, ?_⟩, ?_, hregs, hframe⟩
  · rw [hvx, s.readV_setFlag_ne _ hx, BitVec.toNat_shiftLeft, Nat.shiftLeft_eq, pow_one, Nat.mul_comm]
  · rw [hvf hx, highBit_eq_decide, flagByte_decide]
  · rintro rfl
    rw [hvx, s.readV_setFlag_vf, flagByte_shiftLeft, highBit_eq_decide]
    exact if_congr decide_eq_true_iff rfl rfl

/-- Settles O37. -/
theorem shiftsMoveOneBitIntoVf : Obligations.ShiftsMoveOneBitIntoVf :=
  fun x y s => ⟨decode_encode (.shr x y), decode_encode (.shl x y), exec_shr_spec x y s,
    exec_shl_spec x y s⟩

/-! ### The random byte -/

section
variable {s : State}

/-- A supplied byte is drawn and used up. -/
theorem State.draw_of_cons {b : Byte} {rest : List Byte} (h : s.draws = b :: rest) :
    s.drawByte = b ∧ s.consumeDraw.draws = rest ∧ s.consumeDraw.drawn = s.drawn := by
  simp [State.drawByte, State.consumeDraw, h]

/-- With no byte supplied, the free byte of the counter is drawn and the counter advances. -/
theorem State.draw_of_nil (h : s.draws = []) : s.drawByte = Config.freeDraw s.drawn ∧
    s.consumeDraw.draws = [] ∧ s.consumeDraw.drawn = s.drawn + 1 := by
  simp [State.drawByte, State.consumeDraw, h]

end

/-- An instruction that cannot fault has written only its units and registers. -/
theorem exec_wroteOnly {i : Instr} {s t : State} (h : exec i s = .next t) (hi : ¬ CanFault i) :
    WroteOnly i s t :=
  (exec_next_cases h).resolve_right fun hf => hi hf.1

/-- Settles O38: Vx is the drawn byte masked, and the draw is the supplied byte or the free one. -/
theorem randomIsADrawnByteMasked : Obligations.RandomIsADrawnByteMasked := by
  intro x kk s
  obtain ⟨hframe, hregs, -⟩ : WroteOnly (.rnd x kk) s (s.consumeDraw.writeV x (s.drawByte &&& kk)) :=
    exec_wroteOnly rfl id
  have hvx := s.consumeDraw.readV_writeV_same x (s.drawByte &&& kk)
  refine ⟨decode_encode (.rnd x kk), _, rfl, fun b rest h => ?_, fun h => ?_, hregs, hframe⟩
  · obtain ⟨hbyte, hdraws, hdrawn⟩ := State.draw_of_cons h
    exact ⟨hvx.trans (by rw [hbyte]), hdraws, hdrawn⟩
  · obtain ⟨hbyte, hdraws, hdrawn⟩ := State.draw_of_nil h
    exact ⟨hvx.trans (by rw [hbyte]), hdraws, hdrawn⟩

end Sys2Proof.Machine
end

section
/-! Index register and memory (44_index_memory.md): Annn (O39), Fx1E and Fx29 (O40), Fx33 inside memory
(O41) and beyond it (O42), Fx55 likewise (O43, O44), Fx65 likewise (O45, O46), and Fx65 after Fx55 (O47). -/

namespace Sys2Proof.Machine

/-! ### The index register -/

/-- Settles O39: one write of I. -/
theorem loadIndexSetsI : Obligations.LoadIndexSetsI :=
  fun nnn s => ⟨decode_encode (.ldI nnn), _, rfl, zextAddr_toNat nnn, s.setI_frame _⟩

/-- The highest glyph address is 5 times 255, so the word holds it (R143). -/
theorem glyphAddr_toNat (b : Byte) : (glyphAddr b).toNat = 5 * b.toNat :=
  (BitVec.toNat_ofNat _ 16).trans (Nat.mod_eq_of_lt (show 5 * b.toNat < 65536 by
    have := b.isLt
    omega))

/-- Settles O40: each of the two is one write of I. -/
theorem addToIndexAndGlyphAddress : Obligations.AddToIndexAndGlyphAddress := by
  intro x s
  refine ⟨decode_encode (.addI x), decode_encode (.ldGlyph x), ⟨_, rfl, ?_, s.setI_frame _⟩,
    ⟨_, rfl, glyphAddr_toNat _, s.setI_frame _⟩⟩
  rw [State.setI_i, BitVec.toNat_add, zextByte_toNat]

/-! ### Stores from the address in I -/

/-- The fault of an access that starts at I, taken in whatever state `u` the access has reached. -/
theorem State.raise_firstOutOfRange_faulted (s u : State) :
    Faulted .memOutOfBounds (firstOutOfRange s.i.toNat)
      (u.raise .memOutOfBounds (firstOutOfRange s.i.toNat)) := by
  have hle := (firstOutOfRange_bounds s.i.isLt).2
  exact u.raise_faulted _ (by omega)

/-- The store of the bytes of `bs` whose addresses exist. It is defined from any address on, 4096 and
above included, where no byte has room. -/
theorem State.storeBytes_fitting (s : State) (a : Nat) (bs : List Byte) :
    let u := (s.storeBytes a (bs.take (4096 - a))).state
    (s.memWf = true → ∀ (k : Nat) (b : Byte), bs[k]? = some b → a + k ≤ 4095 → u.byteAt (a + k) = b) ∧
    OnlyBytes (fun q => a ≤ q ∧ q ≤ 4095) s u ∧ SameExcept [.mem] s u := by
  intro u
  by_cases ha : a ≤ 4096
  · have hfit : a + (bs.take (4096 - a)).length ≤ 4096 := by rw [List.length_take]; omega
    refine ⟨fun hw k b hb hk => ?_, fun q hq => ?_, s.storeBytes_frame hfit⟩
    · obtain ⟨hlt, hget⟩ := List.getElem?_eq_some_iff.mp hb
      have htake : k < (bs.take (4096 - a)).length := by rw [List.length_take]; omega
      exact (State.storeBytes_inside hw hfit htake).trans (List.getElem_take.trans hget)
    · exact s.storeBytes_outside hfit (by omega)
  · have hu : u = s := by
      simp only [u, show 4096 - a = 0 by omega, List.take_zero, State.storeBytes, Run.state]
    rw [hu]
    exact ⟨fun _ k _ _ hk => by omega, fun _ _ => rfl, SameExcept.refl _ s⟩

section
variable {i : Instr} {s : State} {bs : List Byte} {n : Nat}
  (e : exec i s = (s.storeBytes (s.effAddr 0) bs).outcome) (hn : bs.length = n + 1)
include e hn

/-- An instruction that stores n + 1 bytes at I to I + n, all of which exist. -/
theorem exec_stores_ok (h : s.effAddr n ≤ 4095) :
    ∃ t, exec i s = .next t ∧
      (s.memWf = true → ∀ (k : Nat) (b : Byte), bs[k]? = some b → t.byteAt (s.effAddr k) = b) ∧
      OnlyBytes (fun a => s.effAddr 0 ≤ a ∧ a ≤ s.effAddr n) s t ∧ SameExcept [.mem] s t := by
  simp only [State.effAddr, Nat.add_zero] at e h ⊢
  have hfit : s.i.toNat + bs.length ≤ 4096 := by omega
  refine ⟨_, e, fun hw k b hb => ?_, fun a ha => ?_, s.storeBytes_frame hfit⟩
  · obtain ⟨hlt, hget⟩ := List.getElem?_eq_some_iff.mp hb
    exact (State.storeBytes_inside hw hfit hlt).trans hget
  · exact s.storeBytes_outside hfit (by omega)

/-- An instruction that stores n + 1 bytes at I to I + n, not all of which exist: the ones that do are
stored before the fault (D11). -/
theorem exec_stores_raised (h : 4095 < s.effAddr n) :
    ∃ t, exec i s = .next t ∧ Faulted .memOutOfBounds (firstOutOfRange (s.effAddr 0)) t ∧
      (s.memWf = true → ∀ (k : Nat) (b : Byte), bs[k]? = some b → s.effAddr k ≤ 4095 →
        t.byteAt (s.effAddr k) = b) ∧
      OnlyBytes (fun a => s.effAddr 0 ≤ a ∧ a ≤ 4095) s t ∧
      SameExcept [.mem, .mode, .cause, .finfo] s t := by
  simp only [State.effAddr, Nat.add_zero] at e h ⊢
  have hne : bs ≠ [] := List.ne_nil_of_length_eq_add_one hn
  obtain ⟨hbytes, honly, hframe⟩ := s.storeBytes_fitting s.i.toNat bs
  have hraised := s.storeBytes_raised (a := s.i.toNat) (by omega) hne
  exact ⟨_, e.trans (congrArg Run.outcome hraised), State.raise_firstOutOfRange_faulted s _, hbytes,
    honly, (hframe.mono (by simp)).trans ((State.raise_frame _ _ _).mono (by simp))⟩

end

/-! ### The decimal digits (R144) -/

/-- A byte is below 1000, so its hundreds are one digit. -/
theorem hundreds_mod_ten (b : Byte) : b.toNat / 100 % 10 = b.toNat / 100 := by
  have := b.isLt
  exact Nat.mod_eq_of_lt (by omega)

theorem bcdDigits_getElem? (b : Byte) {k : Nat} (hk : k < 3) :
    (bcdDigits b)[k]? = some (BitVec.ofNat 8 (b.toNat / 10 ^ (2 - k) % 10)) := by
  match k, hk with
  | 0, _ => simp [bcdDigits, hundreds_mod_ten]
  | 1, _ => rfl
  | 2, _ => simp [bcdDigits]

/-- A decimal digit fits in a byte. -/
theorem toNat_ofNat_digit (n : Nat) : (BitVec.ofNat 8 (n % 10)).toNat = n % 10 :=
  (BitVec.toNat_ofNat _ 8).trans (Nat.mod_eq_of_lt (show n % 10 < 256 by omega))

/-- Settles O41: the three digits are the three bytes stored. -/
theorem bcdStoresThreeDigits : Obligations.BcdStoresThreeDigits := by
  intro x s h
  obtain ⟨t, ht, hbytes, honly, hframe⟩ := exec_stores_ok (i := .ldBcd x) (n := 2) rfl rfl h
  have hdigit : s.memWf = true → ∀ k, k < 3 →
      (t.byteAt (s.effAddr k)).toNat = (s.readV x).toNat / 10 ^ (2 - k) % 10 := fun hw k hk => by
    rw [hbytes hw k _ (bcdDigits_getElem? _ hk), toNat_ofNat_digit]
  refine ⟨decode_encode (.ldBcd x), t, ht, fun hw => ⟨?_, ?_, ?_⟩, honly, hframe⟩
  · exact (hdigit hw 0 (by decide)).trans (hundreds_mod_ten _)
  · exact hdigit hw 1 (by decide)
  · exact (hdigit hw 2 (by decide)).trans (by rw [Nat.sub_self, pow_zero, Nat.div_one])

/-- Settles O42: the digits that fit are the bytes stored before the fault. -/
theorem bcdOutOfRangeKeepsTheDigitsThatFit : Obligations.BcdOutOfRangeKeepsTheDigitsThatFit := by
  intro x s h
  obtain ⟨t, ht, hfault, hbytes, honly, hframe⟩ := exec_stores_raised (i := .ldBcd x) (n := 2) rfl rfl h
  refine ⟨t, ht, hfault, fun hw k hk hle => ?_, honly, hframe⟩
  rw [hbytes hw k _ (bcdDigits_getElem? _ hk) hle, toNat_ofNat_digit]

/-! ### The registers in order (R145) -/

theorem State.firstRegs_getElem? (s : State) {n : Nat} {r : Nibble} (h : r.toNat < n) :
    (s.firstRegs n)[r.toNat]? = some (s.readV r) := by
  rw [State.firstRegs, List.getElem?_map, List.getElem?_range h, Option.map_some, BitVec.ofNat_toNat,
    BitVec.setWidth_eq]

theorem State.length_firstRegs (s : State) (n : Nat) : (s.firstRegs n).length = n := by
  rw [State.firstRegs, List.length_map, List.length_range]

/-- Settles O43: the r-th byte stored is Vr. -/
theorem storeRegistersWritesV0ToVx : Obligations.StoreRegistersWritesV0ToVx := by
  intro x s h
  obtain ⟨t, ht, hbytes, honly, hframe⟩ :=
    exec_stores_ok (i := .storeRegs x) rfl (s.length_firstRegs _) h
  exact ⟨decode_encode (.storeRegs x), t, ht,
    fun hw r hr => hbytes hw _ _ (s.firstRegs_getElem? (Nat.lt_succ_of_le hr)), honly, hframe⟩

/-- Settles O44: a register whose byte fits is one of V0 to Vx, since the byte at I + x does not fit. -/
theorem storeRegistersOutOfRangeKeepsTheBytesThatFit :
    Obligations.StoreRegistersOutOfRangeKeepsTheBytesThatFit := by
  intro x s h
  obtain ⟨t, ht, hfault, hbytes, honly, hframe⟩ :=
    exec_stores_raised (i := .storeRegs x) rfl (s.length_firstRegs _) h
  refine ⟨t, ht, hfault, fun hw r hr => ?_, honly, hframe⟩
  have hlt : r.toNat < x.toNat + 1 := by
    unfold State.effAddr at h hr
    omega
  exact hbytes hw _ _ (s.firstRegs_getElem? hlt) hr

/-! ### Loads from the address in I -/

/-- The load of the registers whose bytes exist. It is defined from any address on, 4096 and above
included, where no byte can be read. -/
theorem State.loadBytes_fitting (s : State) {a : Nat} (h : 4096 - a ≤ 16) :
    let u := (s.loadBytes 0 a (4096 - a)).state
    SameExcept [.v] s u ∧ ∀ q : Nibble,
      u.readV q = if a + q.toNat ≤ 4095 then s.byteAt (a + q.toNat) else s.readV q := by
  intro u
  by_cases ha : a ≤ 4096
  · obtain ⟨t, ht, hframe, hregs⟩ := s.loadBytes_ok (r := 0) (show a + (4096 - a) ≤ 4096 by omega)
      (by omega)
    have hu : u = t := congrArg Run.state ht
    rw [hu]
    exact ⟨hframe, fun q => (hregs q).trans (if_congr (by omega) rfl rfl)⟩
  · have hu : u = s := by simp only [u, show 4096 - a = 0 by omega, State.loadBytes, Run.state]
    rw [hu]
    exact ⟨SameExcept.refl _ s, fun q => (if_neg (by omega)).symm⟩

/-- Settles O45: the byte at I + r goes to Vr. -/
theorem loadRegistersReadsV0ToVx : Obligations.LoadRegistersReadsV0ToVx := by
  intro x s h
  have hx := x.isLt
  obtain ⟨t, ht, hframe, hregs⟩ := s.loadBytes_ok (r := 0) (a := s.effAddr 0) (n := x.toNat + 1)
    (Nat.succ_le_succ h) (by omega)
  refine ⟨decode_encode (.loadRegs x), t, congrArg Run.outcome ht, fun r hr => ?_, fun r hr => ?_,
    hframe⟩
  · rw [hregs r, if_pos (by omega)]
    rfl
  · rw [hregs r, if_neg (by omega)]

/-- Settles O46: the load of the bytes that exist, and then the fault. -/
theorem loadRegistersOutOfRangeKeepsTheBytesRead :
    Obligations.LoadRegistersOutOfRangeKeepsTheBytesRead := by
  intro x s h
  have hx := x.isLt
  simp only [State.effAddr, Nat.add_zero] at h ⊢
  obtain ⟨hframe, hregs⟩ := s.loadBytes_fitting (a := s.i.toNat) (by omega)
  have hraised := s.loadBytes_raised (r := 0) (a := s.i.toNat) (n := x.toNat + 1) (by omega) (by omega)
  exact ⟨_, congrArg Run.outcome hraised, State.raise_firstOutOfRange_faulted s _,
    fun r hr => (hregs r).trans (if_pos hr), fun r hr => (hregs r).trans (if_neg hr),
    (hframe.mono (by simp)).trans ((State.raise_frame _ _ _).mono (by simp))⟩

/-- Settles O47: the load reads the bytes the store left. -/
theorem storedRegistersLoadBack : Obligations.StoredRegistersLoadBack := by
  intro x s t u hw h ht hi hmem
  have haddr : ∀ k, u.effAddr k = s.effAddr k := fun k => congrArg (BitVec.toNat · + k) hi
  obtain ⟨-, t', ht', hstored, -, -⟩ := storeRegistersWritesV0ToVx x s h
  cases ht.symm.trans ht'
  obtain ⟨-, v, hv, hloaded, -, -⟩ := loadRegistersReadsV0ToVx x u ((haddr _).trans_le h)
  refine ⟨v, hv, fun r hr => ?_⟩
  rw [hloaded r hr, haddr, hmem, hstored hw r hr]

end Sys2Proof.Machine
end

section
/-! Keys and timers, the program's side (45_keys_timers.md): the key skips where they complete (O49) and
where they fault (O50), the key wait (O51), the timer moves (O48). -/

namespace Sys2Proof.Machine

/-! ### The key skips -/

section
variable {x : Nibble} {s : State}

/-- Ex9E is the skip on the key that the low digit of Vx numbers. -/
theorem exec_skp_ok (h : (s.readV x).toNat ≤ 15) :
    exec (.skp x) s = .next (s.skipIf (s.readKey (BitVec.ofNat 4 (s.readV x).toNat))) := by
  simp only [exec, execSkp, s.keyOperand_ok x h, BitVec.ofNat_toNat]

/-- ExA1 is the skip on the opposite of that key. -/
theorem exec_sknp_ok (h : (s.readV x).toNat ≤ 15) :
    exec (.sknp x) s = .next (s.skipIf (!s.readKey (BitVec.ofNat 4 (s.readV x).toNat))) := by
  simp only [exec, execSknp, s.keyOperand_ok x h, BitVec.ofNat_toNat]

/-- Both key skips fault on a number that no key has, in the state they began in (D13). -/
theorem exec_keySkip_faulted {i : Instr} (hi : i = .skp x ∨ i = .sknp x)
    (h : 15 < (s.readV x).toNat) :
    ∃ t, exec i s = .next t ∧ Faulted .keyIndexOutOfRange (s.readV x).toNat t ∧
      SameExcept [.mode, .cause, .finfo] s t := by
  have hraise : exec i s = .next (s.raise .keyIndexOutOfRange (s.readV x).toNat) := by
    obtain rfl | rfl := hi
    · simp only [exec, execSkp, s.keyOperand_raised x h]
    · simp only [exec, execSknp, s.keyOperand_raised x h]
  have hbyte := (s.readV x).isLt
  exact ⟨_, hraise, s.raise_faulted _ (by omega), s.raise_frame _ _⟩

end

/-- Settles O49: the two are skips on opposite conditions. -/
theorem keySkipsTestTheKeyOfVx : Obligations.KeySkipsTestTheKeyOfVx := by
  intro x s h
  have hup : (!s.readKey (BitVec.ofNat 4 (s.readV x).toNat)) = true ↔
      ¬ s.readKey (BitVec.ofNat 4 (s.readV x).toNat) = true := by
    rw [Bool.not_eq_true', Bool.not_eq_true]
  refine ⟨decode_encode (.skp x), decode_encode (.sknp x), exec_skip (exec_skp_ok h) Iff.rfl, ?_⟩
  simpa only [ite_not] using exec_skip (exec_sknp_ok h) hup

/-- Settles O50. -/
theorem keySkipsFaultAboveFifteen : Obligations.KeySkipsFaultAboveFifteen :=
  fun _ _ h => ⟨exec_keySkip_faulted (.inl rfl) h, exec_keySkip_faulted (.inr rfl) h⟩

/-! ### The key wait -/

/-- A write of one key: its value, and that nothing else changes. -/
theorem State.writeKey_spec (s : State) (k : Nibble) (b : Bool) :
    (s.writeKey k b).readKey k = b ∧ (∀ j, j ≠ k → (s.writeKey k b).readKey j = s.readKey j) ∧
    SameExcept [.key] s (s.writeKey k b) :=
  ⟨(s.readKey_writeKey k k b).trans (if_pos rfl),
    fun j hj => (s.readKey_writeKey k j b).trans (if_neg hj), s.writeKey_frame k b⟩

/-- The end of a wait: V[WAITX] holds the key's number, MODE is RUN, and nothing else changes
(60_exceptions.md R176). -/
theorem State.resolveKey_spec (s : State) (k : Nibble) :
    (s.resolveKey k).mode = .run ∧ ((s.resolveKey k).readV s.waitx).toNat = k.toNat ∧
    OnlyRegs (· = s.waitx) s (s.resolveKey k) ∧ SameExcept [.v, .mode] s (s.resolveKey k) := by
  obtain ⟨hvx, hregs, hframe⟩ := s.writeV_spec s.waitx (k.setWidth 8)
  exact ⟨rfl, (congrArg BitVec.toNat hvx).trans (BitVec.toNat_setWidth_of_le (by decide)), hregs,
    (hframe.mono (by simp)).trans ((State.setMode_frame _ _).mono (by simp))⟩

/-- KEY_DOWN in a wait is the write of the key and then the end of the wait. -/
theorem hostMove_keyDown_of_waitKey {s : State} (hm : s.mode = .waitKey) (k : Nibble) :
    hostMove (.keyDown k) s = .next ((s.writeKey k true).resolveKey k) :=
  congrArg Host.Outcome.next ((s.keyDown_cases k).resolve_right fun h => h.1 hm).2

/-- Settles O51: a wait ends by KEY_DOWN, which writes one key, one register and MODE; KEY_UP and TICK
write neither a register nor MODE. -/
theorem keyWaitEndsAtTheNextKeyDown : Obligations.KeyWaitEndsAtTheNextKeyDown := by
  intro x k s u
  refine ⟨decode_encode (.ldVxKey x), ⟨_, rfl, rfl, rfl, s.awaitKey_frame x⟩, ?_⟩
  rintro hm rfl
  refine ⟨⟨_, hostMove_keyDown_of_waitKey hm k, ?_⟩, ⟨_, rfl, hm, fun _ => rfl⟩,
    ⟨_, rfl, hm, fun _ => rfl⟩⟩
  obtain ⟨hdown, hothers, hkey⟩ := u.writeKey_spec k true
  obtain ⟨hrun, hvx, hregs, hresolve⟩ := (u.writeKey k true).resolveKey_spec k
  have hkept : ∀ j, ((u.writeKey k true).resolveKey k).readKey j = (u.writeKey k true).readKey j :=
    hresolve .key (by decide)
  exact ⟨hrun, hvx, (hkept k).trans hdown, hregs, fun j hj => (hkept j).trans (hothers j hj),
    (hkey.mono (by simp)).trans (hresolve.mono (by simp))⟩

/-! ### The timers -/

/-- Settles O48: one write of Vx, of DT, of ST. -/
theorem timerInstructionsMoveOneByte : Obligations.TimerInstructionsMoveOneByte :=
  fun x s => ⟨decode_encode (.ldVxDt x), decode_encode (.ldDtVx x), decode_encode (.ldStVx x),
    ⟨_, rfl, s.writeV_spec x s.dt⟩, ⟨_, rfl, rfl, s.setDt_frame _⟩, ⟨_, rfl, rfl, s.setSt_frame _⟩⟩

end Sys2Proof.Machine
end

section
/-! The host's events (60_exceptions.md): TICK on both timers (O52), KEY_UP (O53), KEY_DOWN outside a wait
(O54), SNAPSHOT (O59). -/

namespace Sys2Proof.Machine

/-! ### TICK -/

/-- A tick of one timer is the truncated subtraction of 1 (60_exceptions.md R173). -/
theorem toNat_tickDown (b : Byte) : (tickDown b).toNat = b.toNat - 1 := by
  unfold tickDown
  split
  · next h => rw [h]; rfl
  · next h => exact toNat_sub_one_of_le (Nat.pos_of_ne_zero fun hz => h (BitVec.eq_of_toNat_eq hz))

/-- TICK writes the two timers. -/
theorem State.tick_frame (s : State) : SameExcept [.dt, .st] s s.tick :=
  ((s.setDt_frame _).mono (by simp)).trans ((State.setSt_frame _ _).mono (by simp))

/-- Settles O52: DT and then ST is ticked down, each from its old value. -/
theorem tickCountsTheTimersDownToZero : Obligations.TickCountsTheTimersDownToZero :=
  fun s => ⟨s.tick, rfl, toNat_tickDown s.dt, toNat_tickDown s.st, s.tick_frame⟩

/-! ### Keys -/

/-- Settles O53: KEY_UP is the write of 0 to one key. -/
theorem keyUpClearsOneKey : Obligations.KeyUpClearsOneKey :=
  fun k s => ⟨s.keyUp k, rfl, s.writeKey_spec k false⟩

/-- Outside a wait KEY_DOWN is the write of the key alone. -/
theorem hostMove_keyDown_of_ne_waitKey {s : State} (hm : s.mode ≠ .waitKey) (k : Nibble) :
    hostMove (.keyDown k) s = .next (s.writeKey k true) :=
  congrArg Host.Outcome.next ((s.keyDown_cases k).resolve_left fun h => hm h.1).2

/-- Settles O54: KEY_DOWN outside a wait is the write of 1 to one key. -/
theorem keyDownOutsideAWaitSetsOneKey : Obligations.KeyDownOutsideAWaitSetsOneKey :=
  fun k s hm => ⟨s.writeKey k true, hostMove_keyDown_of_ne_waitKey hm k, s.writeKey_spec k true⟩

/-! ### SNAPSHOT -/

/-- Settles O59: the move answers the state it is raised in, once the turn is taken, and the grid
reported is FB. -/
theorem snapshotReadsTheFramebuffer : Obligations.SnapshotReadsTheFramebuffer :=
  fun s h => ⟨⟨s.endTurn, step_host h, s.endTurn_frame⟩, s.fb, rfl, fun _ _ => rfl⟩

end Sys2Proof.Machine
end

section
/-! RESET and LOAD, and the hazards (70_reset_and_hazards.md): where an instruction faults (O14), FONT
(O13), LOAD of an image that fits (O56) and of one that does not (O57), and LOAD's place (O58). -/

namespace Sys2Proof.Machine

/-! ### Where an instruction faults (R200) -/

section
variable {i : Instr} {s t : State}

/-- An instruction that cannot fault does not lead into FAULT: it leaves MODE alone, or begins a wait. -/
theorem exec_ne_fault_of_not_canFault (hi : ¬ CanFault i) (hm : s.mode ≠ .fault)
    (h : exec i s = .next t) : t.mode ≠ .fault := by
  by_cases hu : .mode ∈ writtenUnits i
  · obtain ⟨x, rfl⟩ := of_mode_mem_writtenUnits hu
    cases h
    exact Mode.noConfusion
  · have hkept : t.mode = s.mode := (exec_wroteOnly h hi).frame .mode hu
    exact hkept.trans_ne hm

/-- Within R200's conditions, each of the eight instructions that can fault completes, in the same
MODE. -/
theorem exec_mode_of_faultFree (hi : CanFault i) (h : FaultFree i s) :
    ∃ t, exec i s = .next t ∧ t.mode = s.mode := by
  cases i with
  | ret => exact ⟨_, exec_ret_ok s h.1 h.2, rfl⟩
  | call nnn => exact ⟨_, exec_call_ok nnn s h, rfl⟩
  | drw x y n => exact ⟨_, exec_drw_ok h, rfl⟩
  | skp x => exact ⟨_, exec_skp_ok h, s.skipIf_frame _ .mode (by decide)⟩
  | sknp x => exact ⟨_, exec_sknp_ok h, s.skipIf_frame _ .mode (by decide)⟩
  | ldBcd x =>
    obtain ⟨-, t, ht, -, -, hframe⟩ := bcdStoresThreeDigits x s h
    exact ⟨t, ht, hframe .mode (by decide)⟩
  | storeRegs x =>
    obtain ⟨-, t, ht, -, -, hframe⟩ := storeRegistersWritesV0ToVx x s h
    exact ⟨t, ht, hframe .mode (by decide)⟩
  | loadRegs x =>
    obtain ⟨-, t, ht, -, -, hframe⟩ := loadRegistersReadsV0ToVx x s h
    exact ⟨t, ht, hframe .mode (by decide)⟩
  | _ => exact hi.elim

/-- An instruction that leaves a fault record leaves MODE at FAULT. -/
theorem exec_fault_of_faulted {c : Cause} {n : Nat} {P : State → Prop}
    (h : ∃ t, exec i s = .next t ∧ Faulted c n t ∧ P t) :
    ∃ t, exec i s = .next t ∧ t.mode = .fault := by
  obtain ⟨t, ht, hfault, -⟩ := h
  exact ⟨t, ht, hfault.1⟩

/-- Outside R200's conditions, an instruction raises. -/
theorem exec_fault_of_not_faultFree (h : ¬ FaultFree i s) :
    ∃ t, exec i s = .next t ∧ t.mode = .fault := by
  cases i with
  | ret =>
    have hsp : ¬(1 ≤ s.sp.toNat ∧ s.sp.toNat ≤ 16) := h
    exact ⟨_, exec_ret_raised s (by omega), rfl⟩
  | call nnn => exact ⟨_, exec_call_raised nnn s (Nat.not_lt.mp h), rfl⟩
  | drw x y n =>
    obtain ⟨hout, hn⟩ := not_or.mp h
    exact ⟨_, exec_drw_raised x y hn (Nat.not_le.mp hout), rfl⟩
  | skp x => exact exec_fault_of_faulted (exec_keySkip_faulted (.inl rfl) (Nat.not_le.mp h))
  | sknp x => exact exec_fault_of_faulted (exec_keySkip_faulted (.inr rfl) (Nat.not_le.mp h))
  | ldBcd x =>
    exact exec_fault_of_faulted (bcdOutOfRangeKeepsTheDigitsThatFit x s (Nat.not_le.mp h))
  | storeRegs x =>
    exact exec_fault_of_faulted
      (storeRegistersOutOfRangeKeepsTheBytesThatFit x s (Nat.not_le.mp h))
  | loadRegs x =>
    exact exec_fault_of_faulted (loadRegistersOutOfRangeKeepsTheBytesRead x s (Nat.not_le.mp h))
  | _ => exact absurd trivial h

end

/-- Settles O14, by the two sides of R200's condition. -/
theorem instructionFaultsExactlyOutsideItsSafeRegion :
    Obligations.InstructionFaultsExactlyOutsideItsSafeRegion := by
  intro i s hm
  by_cases hf : FaultFree i s
  · have hsafe : ∃ t, exec i s = .next t ∧ t.mode ≠ .fault := by
      by_cases hi : CanFault i
      · obtain ⟨t, ht, hkept⟩ := exec_mode_of_faultFree hi hf
        exact ⟨t, ht, hkept.trans_ne hm⟩
      · obtain ⟨t, ht⟩ := exec_total i s
        exact ⟨t, ht, exec_ne_fault_of_not_canFault hi hm ht⟩
    obtain ⟨t, ht, hne⟩ := hsafe
    exact ⟨t, ht, iff_of_false hne (not_not_intro hf)⟩
  · obtain ⟨t, ht, hfault⟩ := exec_fault_of_not_faultFree hf
    exact ⟨t, ht, iff_of_true hfault hf⟩

/-! ### What no Step and no move of the host writes -/

section
variable {s t : State} {c : Component}

/-- A word leaves a component alone that no instruction writes. -/
theorem execWord_agree {w : Word} (h : execWord w s = .next t) (hu : ∀ i, c ∉ writtenUnits i)
    (hf : c ∉ [Component.mode, .cause, .finfo]) : Agree c s t := by
  cases hd : decode w with
  | instr i =>
    rw [execWord_of_instr hd] at h
    exact exec_agree h (hu i) hf
  | undefined u =>
    simp only [execWord, hd] at h
    cases h
    exact Agree.refl c s

/-- A Step does not write FONT, nor the LOAD window once it has closed it. -/
theorem coreStep_agree (h : coreStep s = .next t) (hc : c ∈ [Component.font, .loadOpen]) :
    Agree c s.closeLoad t := by
  have hkept : c ∈ [Component.cause, .finfo, .key, .font, .loadOpen, .schedule, .environment] := by
    revert c; decide
  have hout : c ∉ [Component.pc, .mode, .cause, .finfo] := by revert c; decide
  obtain ⟨-, e⟩ | ⟨-, e⟩ | ⟨-, e⟩ := coreStep_cases s
  · have hpc : Agree c s.closeLoad s.closeLoad.advancePc :=
      (State.setPc_frame _ _).mono (by simp) c hout
    exact hpc.trans (execWord_agree (e.symm.trans h) (fun i => not_mem_writtenUnits i hkept)
      fun hm => hout (.tail _ hm))
  all_goals
    cases h.symm.trans e
    exact (State.raise_frame _ _ _).mono (by simp) c hout

/-- The units the host's moves write, RESET aside. -/
theorem hostMove_frame {e : HostEvent} (h : hostMove e s = .next t) (he : e ≠ .reset) :
    SameExcept [.v, .pc, .dt, .st, .mem, .key, .mode] s t := by
  obtain ⟨hr, -⟩ | ⟨rom, -, -, rfl⟩ | ⟨-, rfl⟩ | ⟨k, -, rfl⟩ | ⟨k, -, rfl⟩ | ⟨-, rfl⟩ :=
    hostMove_cases h
  · exact absurd hr he
  · exact (s.loadEvent_frame rom).mono (by simp)
  · exact s.tick_frame.mono (by simp)
  · have hkey := s.writeKey_frame k true
    obtain ⟨-, e⟩ | ⟨-, e⟩ := s.keyDown_cases k
    · obtain ⟨-, -, -, hresolve⟩ := (s.writeKey k true).resolveKey_spec k
      rw [e]
      exact (hkey.mono (by simp)).trans (hresolve.mono (by simp))
    · rw [e]
      exact hkey.mono (by simp)
  · exact (s.writeKey_frame k false).mono (by simp)
  · exact SameExcept.refl _ _

end

/-! ### FONT -/

theorem coreStep_font {s t : State} (h : coreStep s = .next t) : t.font = s.font :=
  coreStep_agree (c := .font) h (by decide)

/-- RESET keeps FONT (log 8), and the host's other moves do not write it. -/
theorem hostMove_font {e : HostEvent} {s t : State} (h : hostMove e s = .next t) :
    t.font = s.font := by
  by_cases he : e = .reset
  · subst he
    cases h
    exact s.resetEvent_font
  · exact hostMove_frame h he .font (by decide)

/-- Settles O13, by the kinds of move. -/
theorem noMoveWritesTheFont : Obligations.NoMoveWritesTheFont := by
  intro s t h
  change t.font = s.endTurn.font
  obtain ⟨-, e⟩ | ⟨-, -, -, e⟩ | ⟨-, -, e⟩ | ⟨ev, -, e⟩ := step_cases s
  · exact coreStep_font (e.symm.trans h)
  · cases h.symm.trans e
    rfl
  · cases h.symm.trans e
  · exact hostMove_font (e.symm.trans h)

/-! ### LOAD -/

section
variable {s : State} {rom : List Byte}

theorem romFits_iff : romFits rom = true ↔ rom.length + 512 < 4096 := by
  rw [Nat.add_comm]
  exact decide_eq_true_iff

/-- Where LOAD is admitted, it is R193's event and reports whether the image fits. -/
theorem load_of_admitted (h : s.loadAdmitted = true) :
    hostMove (.load rom) s = .next (s.loadEvent rom) ∧
    replyTo (.load rom) s = if romFits rom then .loaded else .programTooLarge :=
  ⟨if_pos h, if_pos h⟩

/-- Where LOAD is not admitted, it is refused and reports nothing (log 6, log 9). -/
theorem load_of_not_admitted (h : ¬ s.loadAdmitted = true) :
    hostMove (.load rom) s = .refused .loadNotAdmitted ∧ replyTo (.load rom) s = .nothing :=
  ⟨if_neg h, if_neg h⟩

theorem State.loadAdmitted_iff (s : State) :
    s.loadAdmitted = true ↔ s.loadOpen = true ∧ s.mode = .run := by
  rw [State.loadAdmitted, Bool.and_eq_true, beq_iff_eq]

/-- An image that fits is stored from 512 up and PC is set to 512 (R193). -/
theorem State.loadEvent_of_fits (h : rom.length + 512 < 4096) :
    s.loadEvent rom = (s.putBytes 512 rom).setPc 512 :=
  ((s.loadEvent_cases rom).resolve_right fun hc => Nat.not_le.mpr h hc.1).2

/-- An image that does not fit changes nothing (R194). -/
theorem State.loadEvent_of_too_large (h : 4096 ≤ rom.length + 512) : s.loadEvent rom = s :=
  ((s.loadEvent_cases rom).resolve_left fun hc => Nat.not_lt.mpr h hc.1).2

end

/-- Settles O56: the bytes stored are the image, and PC is set after them. -/
theorem loadCopiesTheImage : Obligations.LoadCopiesTheImage := by
  intro rom s hw ha hfit
  obtain ⟨hmove, hreply⟩ := load_of_admitted (rom := rom) ha
  obtain ⟨-, -, hbytes, hothers⟩ := State.putBytes_spec (a := 512) (bs := rom) hw (by omega)
  have hframe := s.loadEvent_frame rom
  rw [State.loadEvent_of_fits hfit] at hmove hframe
  exact ⟨hreply.trans (if_pos (romFits_iff.mpr hfit)), _, hmove, hbytes,
    fun q hq => hothers q (by omega), rfl, hframe⟩

/-- Settles O57: the event answers the state it was raised in. -/
theorem loadTooLargeChangesNothing : Obligations.LoadTooLargeChangesNothing := by
  intro rom s ha hlarge
  obtain ⟨hmove, hreply⟩ := load_of_admitted (rom := rom) ha
  rw [State.loadEvent_of_too_large hlarge] at hmove
  exact ⟨hreply.trans (if_neg fun hf => Nat.not_lt.mpr hlarge (romFits_iff.mp hf)), s, hmove,
    SameExcept.refl [] s⟩

/-! ### LOAD's place (R195) -/

/-- A Step closes the LOAD window, and nothing in the Step opens it again. -/
theorem coreStep_loadOpen {s t : State} (h : coreStep s = .next t) : t.loadOpen = false :=
  coreStep_agree (c := .loadOpen) h (by decide)

/-- Of all moves only RESET opens the LOAD window. -/
theorem loadOpen_or_reset_of_step {s t : State} (h : step s = .next t) (ho : t.loadOpen = true) :
    s.loadOpen = true ∨ s.hostNext .reset := by
  obtain ⟨-, e⟩ | ⟨-, -, -, e⟩ | ⟨-, -, e⟩ | ⟨ev, hev, e⟩ := step_cases s
  · cases ho.symm.trans (coreStep_loadOpen (e.symm.trans h))
  · cases h.symm.trans e
    exact .inl ho
  · cases h.symm.trans e
  · by_cases hr : ev = .reset
    · subst hr
      exact .inr hev
    · have hkept : t.loadOpen = s.loadOpen := hostMove_frame (e.symm.trans h) hr .loadOpen (by decide)
      exact .inl (hkept.symm.trans ho)

/-- Settles O58: a Step closes the window, only RESET opens it, and LOAD is admitted only
while it is open and MODE is RUN. -/
theorem loadIsAdmittedOnlyBetweenResetAndTheFirstStep :
    Obligations.LoadIsAdmittedOnlyBetweenResetAndTheFirstStep := by
  intro s t h
  refine ⟨loadOpen_or_reset_of_step h, fun hs => coreStep_loadOpen ((step_run hs).symm.trans h),
    fun rom hshut => load_of_not_admitted fun ha => ?_⟩
  obtain ⟨hopen, hrun⟩ := t.loadAdmitted_iff.mp ha
  obtain hclosed | hmode := hshut
  · cases hopen.symm.trans hclosed
  · exact hmode hrun

end Sys2Proof.Machine
end
